-- ==== Sys2Proof/Word.lean ====
section
/-! DEFINITION. The word types of the block: a byte of the wire, a 16-bit data lane pair, the 19-bit command word. -/

namespace Sys2Proof

/-- A byte of the wire (00_scope R9: a byte is 8 bits). -/
abbrev Byte := BitVec 8

/-- A 16-bit value: `cmd_value`, `frame_q`, `wr_req_data`, `rd_done_data`, `rsp_value` (10_state R22 to R32). -/
abbrev Half := BitVec 16

/-- The command word `cw` (30_encoding R71): the values on the command port at a transfer, `[15:0]` value, `[17:16]` op,
`[18]` checked. -/
abbrev CommandWord := BitVec 19

end Sys2Proof
end

