-- ==== Sys2Proof/Syntax.lean ====
section
/-! DEFINITION. The commands: one constructor per row of spec/opcode_table.json (30_encoding R70 to R72). -/

namespace Sys2Proof

/-- A command as it stands on the command port. Where the format ignores `cmd_checked` and `cmd_value` (30_encoding R72),
the constructor still carries them, so that no bit of a command word is dropped; no meaning reads them (log 5). -/
inductive Instr where
  /-- GETFB, Get Feedback (41_exchange R118): format CG, both fields ignored. -/
  | getfb (ignoredChecked : Bool) (ignoredValue : Half)
  /-- GETTG, Get Target (R119): format CG, both fields ignored. -/
  | gettg (ignoredChecked : Bool) (ignoredValue : Half)
  /-- SETTG v, Set Target, unchecked (R120): format CS with `cmd_checked` = 0. -/
  | settg (v : Half)
  /-- SETTG.C v, Set Target, checked (R121): format CS with `cmd_checked` = 1. -/
  | settgC (v : Half)
  /-- OP3, the reserved code (R122): format CR, both fields ignored. -/
  | op3 (ignoredChecked : Bool) (ignoredValue : Half)
deriving DecidableEq, Repr, Inhabited

/-- The command code `cmd_op` of a command (30_encoding R70). -/
def Instr.op : Instr → BitVec 2
  | .getfb _ _ => 0
  | .gettg _ _ => 1
  | .settg _   => 2
  | .settgC _  => 2
  | .op3 _ _   => 3

end Sys2Proof
end

