-- ==== Sys2Proof/WellFormed.lean ====
section
/-! DEFINITION. Which commands are well formed, and which the assembler notation of 30_encoding R82 can write. -/

namespace Sys2Proof

/-- Every command the type admits is a legal command word (30_encoding R80: the ignored fields may hold anything, an
unchecked or checked Set Target may hold any 16-bit value, the reserved code is accepted). The widths in the type leave
nothing to check, so this refuses nothing. -/
def Instr.wellFormed : Instr → Bool
  | .getfb _ _ => true
  | .gettg _ _ => true
  | .settg _   => true
  | .settgC _  => true
  | .op3 _ _   => true

/-- The commands the notation of 30_encoding R82 writes: `GETFB`, `GETTG` and `OP3` have their other fields 0. -/
def Instr.canonical : Instr → Bool
  | .getfb c v => !c && v == 0
  | .gettg c v => !c && v == 0
  | .settg _   => true
  | .settgC _  => true
  | .op3 c v   => !c && v == 0

end Sys2Proof
end

