-- ==== Sys2Proof/Decode.lean ====
section
/-! DEFINITION. The command decoder, total on any bytes, and after it the encoder (30_encoding R70 to R72, opcode_table.json). -/

namespace Sys2Proof

/-- Why a byte string is no command word. -/
inductive DecodeError where
  /-- Fewer than three bytes. -/
  | truncated
  /-- One of the bits 23 to 19, which a 19-bit command word does not have, is set. -/
  | bitsAboveCommandWord
deriving DecidableEq, Repr

/-- A row of spec/opcode_table.json matches a command word: the bits under its mask are its match bits. -/
def rowMatches (mask pattern cw : CommandWord) : Bool := cw &&& mask == pattern

/-- `cw[15:0]`, `cmd_value` (30_encoding R71). -/
def valueField (cw : CommandWord) : Half := cw.extractLsb' 0 16

/-- `cw[17:16]`, `cmd_op` (30_encoding R71). -/
def opField (cw : CommandWord) : BitVec 2 := cw.extractLsb' 16 2

/-- `cw[18]`, `cmd_checked` (30_encoding R71). -/
def checkedField (cw : CommandWord) : Bool := cw.getLsbD 18

/-- The command a command word stands for, by the match and mask of opcode_table.json; the five rows cover every word, each
word by exactly one row, so the last row needs no test. -/
def decodeWord (cw : CommandWord) : Instr :=
  if rowMatches 0x30000 0x00000 cw then .getfb (checkedField cw) (valueField cw)
  else if rowMatches 0x30000 0x10000 cw then .gettg (checkedField cw) (valueField cw)
  else if rowMatches 0x70000 0x20000 cw then .settg (valueField cw)
  else if rowMatches 0x70000 0x60000 cw then .settgC (valueField cw)
  else .op3 (checkedField cw) (valueField cw)

/-- The decoder over bytes, a command word laid out in three bytes, bits 7 to 0 first (log 4). -/
def decode : List Byte → Except DecodeError (Instr × List Byte)
  | b0 :: b1 :: b2 :: rest =>
    if b2.toNat < 8 then .ok (decodeWord (b2.setWidth 3 ++ b1 ++ b0), rest)
    else .error .bitsAboveCommandWord
  | _ => .error .truncated

/-- The three bytes of a number of at most 24 bits, the least significant first (log 4). -/
def layoutBytes (w : Nat) : List Byte := [BitVec.ofNat 8 w, BitVec.ofNat 8 (w / 256), BitVec.ofNat 8 (w / 65536)]

/-- The command the decoder reads from a row's word, numbered as spec/opcode_table.json numbers its bits. -/
def decodeTableWord (nbits w : Nat) : Option Instr :=
  let n := w % 2 ^ nbits
  if n < 2 ^ 24 then
    match decode (layoutBytes n) with
    | .ok (i, _) => some i
    | .error _ => none
  else none

/-- The command word with these fields: `cw = {checked, op, value}` (30_encoding R71, 92 D24). -/
def commandWordOf (checked : Bool) (op : BitVec 2) (value : Half) : CommandWord :=
  BitVec.ofBool checked ++ op ++ value

/-- The command word of a command, written from the formats CG, CS and CR (30_encoding R72). -/
def encodeWord : Instr → CommandWord
  | .getfb c v => commandWordOf c 0 v
  | .gettg c v => commandWordOf c 1 v
  | .settg v   => commandWordOf false 2 v
  | .settgC v  => commandWordOf true 2 v
  | .op3 c v   => commandWordOf c 3 v

/-- The three bytes of a command's word, bits 7 to 0 first (log 4). -/
def encode (i : Instr) : List Byte :=
  let cw := encodeWord i
  [cw.extractLsb' 0 8, cw.extractLsb' 8 8, (cw.extractLsb' 16 3).setWidth 8]

end Sys2Proof
end

