-- ==== Sys2Proof/Config.lean ====
section
/-! DEFINITION. What an implementation fixes (the open parameters of 00_scope R8), the input signals, and the free values. -/

namespace Sys2Proof

/-- `CAUSE_W`, the width of the channel's opaque error cause: OPEN (00_scope R8, 92 D16), so it has no body (log 6). -/
opaque Config.causeW : Nat

/-- The type `Cause` of 00_scope R8: passed through unchanged, never read by the block (log 6). -/
abbrev Cause := BitVec Config.causeW

/-- `CH_WRITE_TIMEOUT`, the channel's bound on a write, counted in edges: OPEN (00_scope R8, 20_memory R55, log 17). -/
opaque Config.chWriteTimeout : Nat

/-- `CH_READ_TIMEOUT`, the channel's read deadline, counted in edges: OPEN (00_scope R8, 20_memory R55, log 17). -/
opaque Config.chReadTimeout : Nat

/-- The clock frequency: OPEN, and no rule depends on it (00_scope R8, 93 U8, log 17). -/
opaque Config.clockFrequency : Nat

/-- What the outside drives at one rising edge: the input signals of 10_state R21 to R29, and two facts about the
surroundings that are no pins of the block (70_reset R175, R180; log 12). -/
structure Inputs where
  /-- `rst`, R21. -/
  rst          : Bool
  /-- `cmd_valid`, R22. -/
  cmdValid     : Bool
  /-- `cmd_op`, R22. -/
  cmdOp        : BitVec 2
  /-- `cmd_checked`, R22. -/
  cmdChecked   : Bool
  /-- `cmd_value`, R22 (`VALUE_IN_W` = 16). -/
  cmdValue     : Half
  /-- `rsp_ready`, R24. -/
  rspReady     : Bool
  /-- `wr_req_ready`, R26. -/
  wrReqReady   : Bool
  /-- `wr_done_valid`, R27. -/
  wrDoneValid  : Bool
  /-- `wr_done_err`, R27. -/
  wrDoneErr    : Bool
  /-- `wr_done_count`, R27. -/
  wrDoneCount  : BitVec 2
  /-- `wr_done_cause`, R27. -/
  wrDoneCause  : Cause
  /-- `rd_req_ready`, R28. -/
  rdReqReady   : Bool
  /-- `rd_done_valid`, R29. -/
  rdDoneValid  : Bool
  /-- `rd_done_err`, R29. -/
  rdDoneErr    : Bool
  /-- `rd_done_count`, R29. -/
  rdDoneCount  : BitVec 2
  /-- `rd_done_data`, R29: `[7:0]` the first byte received, `[15:8]` the second (R57). -/
  rdDoneData   : Half
  /-- `rd_done_cause`, R29. -/
  rdDoneCause  : Cause
  /-- An agent other than the block uses the channel at this edge (20_memory R69, 70_reset R180). -/
  otherAgent   : Bool
  /-- The collaborator has the channel closed at this edge (70_reset R175). -/
  channelClosed : Bool
deriving DecidableEq, Repr, Inhabited

/-- FREE VALUE (log 2): the input sample of the edge with this number, for every edge `State.env` lists no sample for.
The caller's commands, the channel's completions with their counts, bytes and causes (93 U1, U2, U6) are all in it. -/
opaque Config.freeInputs : Nat → Inputs

/-- FREE VALUE (log 19): at a write that ends in a hard error at the edge with this number, how many bytes of the request
reached the wire before it, cut at the request's length (20_memory R51, 93 U3). -/
opaque Config.freeErrorBytes : Nat → Nat

end Sys2Proof
end

