-- ==== Sys2Proof/Machine/State.lean ====
section
/-! DEFINITION. The state of the block, the caller and the channel, as plain data; faults, refusals and reset. -/

namespace Sys2Proof.Machine

/-- The sequencer states (10_state R30). The codes 6 and 7 are unused and have no value here (93 U15, log 14). -/
inductive Seq where
  | idle | wrReq | wrWait | rdReq | rdWait | resp
deriving DecidableEq, Repr, Inhabited

/-- The status codes 0 to 7, in order (60_exceptions R141). -/
inductive Status where
  | okValue | okAck | writeIncomplete | writeFailed | readIncomplete | readFailed | valueRejected | illegalOp
deriving DecidableEq, Repr, Inhabited

/-- The block's registers, all of them (10_state R20, R30, R31, R32). -/
structure Regs where
  /-- `state`, R30. -/
  seq          : Seq
  /-- `op_q`, R31. -/
  opQ          : BitVec 2
  /-- `len_q`, R31. -/
  lenQ         : BitVec 2
  /-- `frame_q`, R31: the first byte on the wire in `[7:0]`. -/
  frameQ       : Half
  /-- `rsp_status_q`, R32. -/
  rspStatusQ   : Status
  /-- `rsp_value_q`, R32. -/
  rspValueQ    : Half
  /-- `rsp_expected_q`, R32. -/
  rspExpectedQ : BitVec 2
  /-- `rsp_actual_q`, R32. -/
  rspActualQ   : BitVec 2
  /-- `rsp_cause_q`, R32. -/
  rspCauseQ    : Cause
deriving DecidableEq, Repr

/-- The registers after the reset step (10_state R38). -/
def Regs.reset : Regs where
  seq := .idle
  opQ := 0
  lenQ := 0
  frameQ := 0
  rspStatusQ := .okValue
  rspValueQ := 0
  rspExpectedQ := 0
  rspActualQ := 0
  rspCauseQ := 0

/-- A request the channel has accepted (10_state R36 (a), 00_scope R11 `ChWrite` and `ChRead`). -/
inductive ChannelRequest where
  /-- `write(len, bytes)`, the bytes in the order sent. -/
  | write (len : BitVec 2) (bytes : List Byte)
  /-- `read(max)`. -/
  | read (max : BitVec 2)
deriving DecidableEq, Repr

/-- A write completion (20_memory R51). -/
inductive WriteCompletion where
  /-- `Count(k)`. -/
  | count (k : BitVec 2)
  /-- `Error(cause)`. -/
  | error (cause : Cause)
deriving DecidableEq, Repr

/-- A read completion (20_memory R52): each carries the bytes that arrived and no others. -/
inductive ReadCompletion where
  /-- `Count(0, [])`. -/
  | noByte
  /-- `Count(1, [b0])`. -/
  | oneByte (b0 : Byte)
  /-- `Count(2, [lo, hi])`. -/
  | twoBytes (lo hi : Byte)
  /-- The count 3, which breaks the channel's contract (R54). -/
  | overCount
  /-- `Error(cause)`. -/
  | error (cause : Cause)
deriving DecidableEq, Repr

/-- A typed result: each status carries its own fields and no others (00_scope R12, 60_exceptions R141, R148). -/
inductive Result where
  | okValue (value : Half)
  | okAck
  | writeIncomplete (expected actual : BitVec 2)
  | writeFailed (cause : Cause)
  | readIncomplete (expected actual : BitVec 2)
  | readFailed (cause : Cause)
  | valueRejected
  | illegalOp
deriving DecidableEq, Repr

/-- What happens at the ports at one edge (the last column of 41_exchange R125). -/
inductive PortEvent where
  /-- `rst` = 1 (70_reset R170). -/
  | reset
  /-- A command transfers (10_state R23). -/
  | command (cw : CommandWord)
  /-- A request transfers to the channel (R26, R28). -/
  | request (r : ChannelRequest)
  /-- The block consumes a write completion (41_exchange R115). -/
  | writeDone (w : WriteCompletion)
  /-- The block consumes a read completion (R117). -/
  | readDone (r : ReadCompletion)
  /-- A result transfers (10_state R25). -/
  | result (op : BitVec 2) (r : Result)
deriving DecidableEq, Repr

/-- What the hold rule must remember of the caller (10_state R23, R39). -/
structure Caller where
  /-- The command presented at the last edge, if it did not transfer there. -/
  presented : Option CommandWord
deriving DecidableEq, Repr

/-- A request not yet completed, and how long the channel has had it (10_state R36 (a), R39; 20_memory R55). -/
structure Pending where
  /-- The request. -/
  request : ChannelRequest
  /-- The edges at which it could have completed and did not (log 23). -/
  waited  : Nat
deriving DecidableEq, Repr

/-- The channel's side (10_state R36 (a); 20_memory R51, R55). -/
structure Channel where
  /-- The requests accepted and not yet completed, oldest first (log 9). -/
  pending : List Pending
  /-- The bytes put on the wire, oldest first (log 10). -/
  wire : List Byte
deriving DecidableEq, Repr

/-- The ContractViolation reasons. Each is RECORDED in `State.faults` by the channel's or the caller's step, as a bit that no
later step clears, beside the next state the rules give (00_scope R11, 93 Part 1): `step` never stops with one, so no
instruction is lost to it (log 7). Recording more is safe: claims about conforming runs then say less. -/
inductive Fault where
  /-- `ContractViolation(stray_completion)`: raised by the channel's step (20_memory R53, 41_exchange R124). Safe. -/
  | strayCompletion
  /-- `ContractViolation(count_over_request)`: raised by the channel's step (20_memory R54). Safe. -/
  | countOverRequest
  /-- A request not completed within the channel's bound: raised by the channel's step (10_state R39, 20_memory R55). The spec
  gives this reason no name (log 23). Safe. -/
  | completionOverdue
  /-- `ContractViolation(caller_withdrew_command)`: raised by the caller's step (10_state R23). Safe. -/
  | callerWithdrewCommand
deriving DecidableEq, Repr

/-- The recorded contract violations, one bit per reason (00_scope R11). -/
structure FaultBits where
  strayCompletion       : Bool
  countOverRequest      : Bool
  completionOverdue     : Bool
  callerWithdrewCommand : Bool
deriving DecidableEq, Repr

/-- Why a step gives no next state. -/
inductive Refusal where
  /-- An instruction with no meaning yet: raised by `exec`'s arms alone. Safe. -/
  | notModelled (mnemonic : String)
  /-- Another agent uses the channel during an exchange: raised by `step`, since such a run is outside every claim
  (93 U14 'refuse', 70_reset R180, log 12). Safe. -/
  | channelShared
  /-- The channel is closed during an exchange: raised by `step`, since no run does so (93 U18 'refuse', 70_reset R175,
  log 12). Safe. -/
  | channelClosedInFlight
deriving DecidableEq, Repr



/-- The whole state: the block's registers, the caller and the channel (00_scope R6), the recorded faults, and the model's
own fields (log 2, log 13). -/
structure State where
  regs    : Regs
  caller  : Caller
  channel : Channel
  faults  : FaultBits
  /-- The input samples of the coming edges, oldest first (log 2). -/
  env     : List Inputs
  /-- The number of edges stepped (log 2). -/
  edge    : Nat
  /-- The port events so far, oldest first (log 13). -/
  trace   : List PortEvent
deriving DecidableEq, Repr

/-- The machine right after the reset step (10_state R38); nothing is outstanding at the channel (70_reset R174 (3)) and the
coming inputs are free (log 2, log 15). -/
def State.reset : State where
  regs := Regs.reset
  caller := ⟨none⟩
  channel := ⟨[], []⟩
  faults := ⟨false, false, false, false⟩
  env := []
  edge := 0
  trace := []

end Sys2Proof.Machine
end

