-- ==== Sys2Proof/Machine/Operands.lean ====
section
/-! DEFINITION. The frame encoder and decoder: the codec functions of 40_frame_codec, and the frame map of 30_encoding. -/

namespace Sys2Proof.Machine

/-- `OPC_GET_FEEDBACK` (00_scope R7). -/
def opcGetFeedback : Byte := 0xA5

/-- `OPC_GET_TARGET` (R7). -/
def opcGetTarget : Byte := 0xA3

/-- `SET_MARKER` (R7). -/
def setMarker : Half := 0xC0

/-- `SET_LO_MASK` (R7). -/
def setLoMask : Half := 0x1F

/-- `SET_HI_SHIFT` (R7). -/
def setHiShift : Nat := 5

/-- `SET_HI_MASK` (R7). -/
def setHiMask : Half := 0x7F

/-- `GET_REQ_LEN` (R7). -/
def getReqLen : BitVec 2 := 1

/-- `SET_REQ_LEN` (R7). -/
def setReqLen : BitVec 2 := 2

/-- `RSP_LEN` (R7). -/
def rspLen : BitVec 2 := 2

/-- An encoded request: its length in bytes, and its bytes with the first one sent in `[7:0]` (10_state R31). -/
structure Frame where
  len  : BitVec 2
  data : Half
deriving DecidableEq, Repr

/-- The first byte on the wire of a 16-bit data lane pair (20_memory R57). -/
def firstByte (d : Half) : Byte := d.extractLsb' 0 8

/-- The second byte on the wire of a 16-bit data lane pair (R57). -/
def secondByte (d : Half) : Byte := d.extractLsb' 8 8

/-- `EncodeGetFeedback()` (40_frame_codec R90). -/
def encodeGetFeedback : Frame := ⟨getReqLen, 0x00#8 ++ opcGetFeedback⟩

/-- `EncodeGetTarget()` (R91). -/
def encodeGetTarget : Frame := ⟨getReqLen, 0x00#8 ++ opcGetTarget⟩

/-- The first byte of a Set Target frame, `0xC0 | (v & 0x1F)` (R92). -/
def setByte0 (v : Half) : Byte := (setMarker ||| (v &&& setLoMask)).setWidth 8

/-- The second byte of a Set Target frame, `(v >> 5) & 0x7F` (R92). -/
def setByte1 (v : Half) : Byte := ((v >>> setHiShift) &&& setHiMask).setWidth 8

/-- `EncodeSetTarget(v)`: `frame = {b1, b0}` (R92). -/
def encodeSetTarget (v : Half) : Frame := ⟨setReqLen, setByte1 v ++ setByte0 v⟩

/-- `Encode(op, v)`, which is not evaluated for the reserved code (R93). -/
def encodeFrame (op : BitVec 2) (v : Half) : Option Frame :=
  if op = 0 then some encodeGetFeedback
  else if op = 1 then some encodeGetTarget
  else if op = 2 then some (encodeSetTarget v)
  else none

/-- `InRange(v)`, the checked form's test (R94). -/
def inRange (v : Half) : Bool := v.toNat ≤ 4095

/-- `DecodeResponse(lo, hi)` = `lo + 256 * hi`, 16 bits, no mask and no clamp (R95, 90 C1). -/
def decodeResponse (lo hi : Byte) : Half := lo.setWidth 16 + 256#16 * hi.setWidth 16

/-- `DecodeSetPayload(b0, b1)`, the encoder's inverse, no part of the block (R96, 90 C3). -/
def decodeSetPayload (b0 b1 : Byte) : Half :=
  (b0.setWidth 16 &&& 0x1F#16) ||| ((b1.setWidth 16 &&& 0x7F#16) <<< 5)

/-- The bytes of a request, in the order sent; the second is part of it only when the length is 2 (41_exchange R113). -/
def frameBytes (len : BitVec 2) (data : Half) : List Byte :=
  if len = 2 then [firstByte data, secondByte data] else [firstByte data]

/-- A frame's length as its first byte tells it (30_encoding R78); a byte that starts no frame has none. -/
def frameLength (b0 : Byte) : Option Nat :=
  if b0 >>> 5 = 0b110 then some 2
  else if b0 = opcGetFeedback ∨ b0 = opcGetTarget then some 1
  else none

end Sys2Proof.Machine
end

