-- ==== Sys2Proof/Machine/Flags.lean ====
section
/-! DEFINITION. The block has no condition flags (10_state R34). Its one status: the codes of 60_exceptions R141, the state
codes of 10_state R30, and the typed reading of the result registers (00_scope R12). -/

namespace Sys2Proof.Machine

/-- The numeric value of the state register (10_state R30). -/
def Seq.code : Seq → BitVec 3
  | .idle => 0
  | .wrReq => 1
  | .wrWait => 2
  | .rdReq => 3
  | .rdWait => 4
  | .resp => 5

/-- The numeric status code on `rsp_status` (60_exceptions R141). -/
def Status.code : Status → BitVec 3
  | .okValue => 0
  | .okAck => 1
  | .writeIncomplete => 2
  | .writeFailed => 3
  | .readIncomplete => 4
  | .readFailed => 5
  | .valueRejected => 6
  | .illegalOp => 7

/-- The result the registers hold, with the fields its status names and no others (R12, R141, R148). -/
def Regs.result (r : Regs) : Result :=
  match r.rspStatusQ with
  | .okValue => .okValue r.rspValueQ
  | .okAck => .okAck
  | .writeIncomplete => .writeIncomplete r.rspExpectedQ r.rspActualQ
  | .writeFailed => .writeFailed r.rspCauseQ
  | .readIncomplete => .readIncomplete r.rspExpectedQ r.rspActualQ
  | .readFailed => .readFailed r.rspCauseQ
  | .valueRejected => .valueRejected
  | .illegalOp => .illegalOp

/-- The status of a result (R141). -/
def Result.status : Result → Status
  | .okValue _ => .okValue
  | .okAck => .okAck
  | .writeIncomplete _ _ => .writeIncomplete
  | .writeFailed _ => .writeFailed
  | .readIncomplete _ _ => .readIncomplete
  | .readFailed _ => .readFailed
  | .valueRejected => .valueRejected
  | .illegalOp => .illegalOp

/-- The recorded bit of a contract violation (00_scope R11). -/
def FaultBits.has (f : FaultBits) : Fault → Bool
  | .strayCompletion => f.strayCompletion
  | .countOverRequest => f.countOverRequest
  | .completionOverdue => f.completionOverdue
  | .callerWithdrewCommand => f.callerWithdrewCommand

end Sys2Proof.Machine
end

