-- ==== Sys2Proof/Machine/Ports.lean ====
section
/-! DEFINITION. The ports: the inputs of the coming edge, the output functions, the transfers and the port event of an edge. -/

namespace Sys2Proof

/-- No valid or ready signal asserted, every other signal 0. -/
def Inputs.quiet : Inputs where
  rst := false
  cmdValid := false
  cmdOp := 0
  cmdChecked := false
  cmdValue := 0
  rspReady := false
  wrReqReady := false
  wrDoneValid := false
  wrDoneErr := false
  wrDoneCount := 0
  wrDoneCause := 0
  rdReqReady := false
  rdDoneValid := false
  rdDoneErr := false
  rdDoneCount := 0
  rdDoneData := 0
  rdDoneCause := 0
  otherAgent := false
  channelClosed := false

/-- The sample that presents a command word and asserts nothing else. -/
def Inputs.presenting (cw : CommandWord) : Inputs :=
  { Inputs.quiet with cmdValid := true, cmdOp := opField cw, cmdChecked := checkedField cw, cmdValue := valueField cw }

/-- The command word on the command port (30_encoding R71). -/
def Inputs.commandWord (i : Inputs) : CommandWord := commandWordOf i.cmdChecked i.cmdOp i.cmdValue

open Machine

/-- The write completion on the port, if one is asserted; a hard error hides the count (10_state R27, 60_exceptions R150). -/
def Inputs.writeCompletion (i : Inputs) : Option WriteCompletion :=
  if i.wrDoneValid then
    some (if i.wrDoneErr then .error i.wrDoneCause else .count i.wrDoneCount)
  else none

/-- The read completion on the port, if one is asserted: a hard error hides the count and the data, and a byte at a position
not below the count is no part of it (10_state R29, 60_exceptions R150, 93 U4, U5). -/
def Inputs.readCompletion (i : Inputs) : Option ReadCompletion :=
  if i.rdDoneValid then
    some (if i.rdDoneErr then .error i.rdDoneCause
      else if i.rdDoneCount = 0 then .noByte
      else if i.rdDoneCount = 1 then .oneByte (firstByte i.rdDoneData)
      else if i.rdDoneCount = 2 then .twoBytes (firstByte i.rdDoneData) (secondByte i.rdDoneData)
      else .overCount)
  else none

end Sys2Proof

namespace Sys2Proof.Machine

/-- The inputs of the coming edge: the next sample of the script, or the free value of this edge (log 2). -/
def State.inputs (s : State) : Inputs :=
  match s.env with
  | i :: _ => i
  | [] => Config.freeInputs s.edge

/-- The output signals (10_state R22 to R28). -/
structure Outputs where
  cmdReady    : Bool
  rspValid    : Bool
  rspOp       : BitVec 2
  rspStatus   : BitVec 3
  rspValue    : Half
  rspExpected : BitVec 2
  rspActual   : BitVec 2
  rspCause    : Cause
  wrReqValid  : Bool
  wrReqLen    : BitVec 2
  wrReqData   : Half
  rdReqValid  : Bool
  rdReqMax    : BitVec 2
deriving DecidableEq, Repr

/-- The output functions: every output from the registers alone (R33). -/
def Regs.outputs (r : Regs) : Outputs where
  cmdReady := r.seq == .idle
  rspValid := r.seq == .resp
  rspOp := r.opQ
  rspStatus := r.rspStatusQ.code
  rspValue := r.rspValueQ
  rspExpected := r.rspExpectedQ
  rspActual := r.rspActualQ
  rspCause := r.rspCauseQ
  wrReqValid := r.seq == .wrReq
  wrReqLen := r.lenQ
  wrReqData := r.frameQ
  rdReqValid := r.seq == .rdReq
  rdReqMax := rspLen

/-- A command transfers at this edge (R23). -/
def State.commandTransfers (s : State) : Bool := !s.inputs.rst && s.inputs.cmdValid && s.regs.outputs.cmdReady

/-- A result transfers at this edge (R25). -/
def State.resultTransfers (s : State) : Bool := !s.inputs.rst && s.regs.outputs.rspValid && s.inputs.rspReady

/-- A write request transfers at this edge (R26). -/
def State.writeRequestTransfers (s : State) : Bool := !s.inputs.rst && s.regs.outputs.wrReqValid && s.inputs.wrReqReady

/-- A read request transfers at this edge (R28). -/
def State.readRequestTransfers (s : State) : Bool := !s.inputs.rst && s.regs.outputs.rdReqValid && s.inputs.rdReqReady

/-- The write request on the port (41_exchange R113). -/
def Outputs.writeRequest (o : Outputs) : ChannelRequest := .write o.wrReqLen (frameBytes o.wrReqLen o.wrReqData)

/-- The read request on the port (R116). -/
def Outputs.readRequest (o : Outputs) : ChannelRequest := .read o.rdReqMax

/-- The block consumes a write completion at this edge (R114). -/
def State.consumesWrite (s : State) : Bool := !s.inputs.rst && s.regs.seq == .wrWait && s.inputs.wrDoneValid

/-- The block consumes a read completion at this edge (R116). -/
def State.consumesRead (s : State) : Bool := !s.inputs.rst && s.regs.seq == .rdWait && s.inputs.rdDoneValid

/-- The port event of this edge, the last column of R125; at most one happens (60_exceptions R151). -/
def State.portEvent (s : State) : Option PortEvent :=
  if s.inputs.rst then some .reset
  else if s.commandTransfers then some (.command s.inputs.commandWord)
  else if s.writeRequestTransfers then some (.request s.regs.outputs.writeRequest)
  else if s.consumesWrite then s.inputs.writeCompletion.map .writeDone
  else if s.readRequestTransfers then some (.request s.regs.outputs.readRequest)
  else if s.consumesRead then s.inputs.readCompletion.map .readDone
  else if s.resultTransfers then some (.result s.regs.opQ s.regs.result)
  else none

end Sys2Proof.Machine
end

