-- ==== Sys2Proof/Machine/Ops.lean ====
section
/-! DEFINITION. The shared operations of the sequencer: acceptance, the end of an exchange (the block's exception entry and its
return), and the edge of each state of an exchange in flight (41_exchange R110 to R117, R123). -/

namespace Sys2Proof.Machine

/-- What every acceptance writes: `op_q`, and the four result fields cleared; `rsp_status_q` stays (R111, R112). -/
def Regs.accept (r : Regs) (op : BitVec 2) : Regs :=
  { r with opQ := op, rspValueQ := 0, rspExpectedQ := 0, rspActualQ := 0, rspCauseQ := 0 }

/-- An accepted command goes on to its write: `len_q`, `frame_q`, `state <- WR_REQ` (R111). -/
def Regs.startWrite (r : Regs) (f : Frame) : Regs :=
  { r with lenQ := f.len, frameQ := f.data, seq := .wrReq }

/-- `finish S`: ends the exchange with a status, the block's ONE failure entry as well as its success: the status is written,
`op_q` is kept, `state <- RESP`, and nothing else changes; control goes nowhere (00_scope R11, 60_exceptions R140, R152). -/
def Regs.finish (r : Regs) (status : Status) : Regs := { r with rspStatusQ := status, seq := .resp }

/-- An accepted command that ends at once: `len_q <- 0; frame_q <- 0; finish` (R111, cases 2 and 3). -/
def Regs.endAtAcceptance (r : Regs) (status : Status) : Regs := { r with lenQ := 0, frameQ := 0 }.finish status

/-- WR_REQ: the presented write transfers when the channel is ready (R113). -/
def Regs.writeRequestEdge (r : Regs) (i : Inputs) : Regs := if i.wrReqReady then { r with seq := .wrWait } else r

/-- The write completion in WR_WAIT (R115): a hard error first, then a count that differs from the length, then the command. -/
def Regs.writeDone (r : Regs) (i : Inputs) : Regs :=
  if i.wrDoneErr then { r with rspCauseQ := i.wrDoneCause }.finish .writeFailed
  else if i.wrDoneCount ≠ r.lenQ then
    { r with rspExpectedQ := r.lenQ, rspActualQ := i.wrDoneCount }.finish .writeIncomplete
  else if r.opQ = 2 then r.finish .okAck
  else { r with seq := .rdReq }

/-- WR_WAIT: nothing until the write completion (R114). -/
def Regs.writeWaitEdge (r : Regs) (i : Inputs) : Regs := if i.wrDoneValid then r.writeDone i else r

/-- RD_REQ: the presented read transfers when the channel is ready (R116). -/
def Regs.readRequestEdge (r : Regs) (i : Inputs) : Regs := if i.rdReqReady then { r with seq := .rdWait } else r

/-- The read completion in RD_WAIT (R117): a hard error first, then a count other than 2, then the decode. -/
def Regs.readDone (r : Regs) (i : Inputs) : Regs :=
  if i.rdDoneErr then { r with rspCauseQ := i.rdDoneCause }.finish .readFailed
  else if i.rdDoneCount ≠ rspLen then
    { r with rspExpectedQ := rspLen, rspActualQ := i.rdDoneCount }.finish .readIncomplete
  else { r with rspValueQ := decodeResponse (firstByte i.rdDoneData) (secondByte i.rdDoneData) }.finish .okValue

/-- RD_WAIT: nothing until the read completion (R116). -/
def Regs.readWaitEdge (r : Regs) (i : Inputs) : Regs := if i.rdDoneValid then r.readDone i else r

/-- RESP, the return from a success or a failure: the result transfers when the caller is ready, `state <- IDLE` and no other
register changes (R123, 60_exceptions R153). -/
def Regs.resultEdge (r : Regs) (i : Inputs) : Regs := if i.rspReady then { r with seq := .idle } else r

/-- The edge of the exchange in flight, chosen by `state` (R110); in IDLE none is in flight and nothing changes. Inputs the
state does not sample have no effect (R124, 60_exceptions R151). -/
def Regs.exchangeEdge (r : Regs) (i : Inputs) : Regs :=
  match r.seq with
  | .idle => r
  | .wrReq => r.writeRequestEdge i
  | .wrWait => r.writeWaitEdge i
  | .rdReq => r.readRequestEdge i
  | .rdWait => r.readWaitEdge i
  | .resp => r.resultEdge i

/-- The rising edge (`rst` = 0) of a command: in IDLE it is the one presented, it transfers, and the registers become
`accepted`; in every other state the exchange in flight takes its edge, by the registers alone, since no register holds
`cmd_value` or `cmd_checked` after acceptance (10_state R31, 41_exchange R110, log 1). -/
def State.commandEdge (s : State) (accepted : Regs) : State :=
  { s with regs := match s.regs.seq with
                   | .idle => accepted
                   | _ => s.regs.exchangeEdge s.inputs }

/-- The reset step: every register to its reset value, whatever the inputs (70_reset R170). -/
def State.resetEdge (s : State) : State := { s with regs := Regs.reset }

end Sys2Proof.Machine
end

