-- ==== Sys2Proof/Machine/Get.lean ====
section
/-! DEFINITION. The meanings of the GET commands (41_exchange R118, R119). -/

namespace Sys2Proof.Machine

/-- GETFB (R118): accepted in IDLE with the one-byte frame 0xA5 (R90, R111); from then on the edges of its exchange. -/
def execGetfb (s : State) : Host.Outcome State Fault Refusal :=
  .next (s.commandEdge ((s.regs.accept 0).startWrite encodeGetFeedback))

/-- GETTG (R119): accepted in IDLE with the one-byte frame 0xA3 (R91, R111); from then on the edges of its exchange. -/
def execGettg (s : State) : Host.Outcome State Fault Refusal :=
  .next (s.commandEdge ((s.regs.accept 1).startWrite encodeGetTarget))

end Sys2Proof.Machine
end

