-- ==== Sys2Proof/Machine/Reserved.lean ====
section
/-! DEFINITION. The meaning of the reserved command code (41_exchange R122). -/

namespace Sys2Proof.Machine

/-- OP3 (R122): accepted in IDLE and ended at once with ILLEGAL_OP, no channel request (R111, R147). -/
def execOp3 (s : State) : Host.Outcome State Fault Refusal :=
  .next (s.commandEdge ((s.regs.accept 3).endAtAcceptance .illegalOp))

end Sys2Proof.Machine
end

