-- ==== Sys2Proof/Machine/Set.lean ====
section
/-! DEFINITION. The meanings of the Set Target commands (41_exchange R120, R121). -/

namespace Sys2Proof.Machine

/-- SETTG v (R120): accepted in IDLE with the two-byte frame of `v`, masked and never rejected (R92, R111). -/
def execSettg (v : Half) (s : State) : Host.Outcome State Fault Refusal :=
  .next (s.commandEdge ((s.regs.accept 2).startWrite (encodeSetTarget v)))

/-- SETTG.C v (R121): ends at acceptance with VALUE_REJECTED, no channel request, when `v` is above 4095 (R94, R146);
otherwise exactly SETTG v. -/
def execSettgC (v : Half) (s : State) : Host.Outcome State Fault Refusal :=
  .next (s.commandEdge
    (if inRange v then (s.regs.accept 2).startWrite (encodeSetTarget v)
     else (s.regs.accept 2).endAtAcceptance .valueRejected))

end Sys2Proof.Machine
end

