-- ==== Sys2Proof/Machine/Dispatch.lean ====
section
/-! DEFINITION. exec: one arm per command, each a direct call of its meaning. -/

namespace Sys2Proof.Machine

/-- The rising edge (`rst` = 0) of command `i`. -/
def exec (i : Instr) (s : State) : Host.Outcome State Fault Refusal :=
  match i with
  | .getfb _ _ => Sys2Proof.Machine.execGetfb s
  | .gettg _ _ => Sys2Proof.Machine.execGettg s
  | .settg v => Sys2Proof.Machine.execSettg v s
  | .settgC v => Sys2Proof.Machine.execSettgC v s
  | .op3 _ _ => Sys2Proof.Machine.execOp3 s

end Sys2Proof.Machine
end

