-- ==== Sys2Proof/Machine/Agents.lean ====
section
/-! DEFINITION. The edge of each agent (00_scope R6): the block, the caller, the channel, and the contract violations a model
records (10_state R39). Each reads the state as it is before the edge (00_scope R11). -/

namespace Sys2Proof.Machine

/-- The block's edge (41_exchange R110): the reset step while `rst` = 1; in IDLE the presented command, if any; in every other
state the exchange in flight. -/
def State.blockEdge (s : State) : Host.Outcome State Fault Refusal :=
  if s.inputs.rst then .next s.resetEdge
  else match s.regs.seq with
    | .idle => if s.inputs.cmdValid then exec (decodeWord s.inputs.commandWord) s else .next s
    | _ => .next { s with regs := s.regs.exchangeEdge s.inputs }

/-- The caller's edge: a command presented and not transferred is remembered (10_state R23). -/
def State.callerEdge (s : State) : Caller :=
  ⟨if s.inputs.cmdValid && !s.commandTransfers then some s.inputs.commandWord else none⟩

/-- The caller withdraws or changes a command it presented before it transferred (R23, log 11). -/
def State.withdrawsCommand (s : State) : Bool :=
  match s.caller.presented with
  | none => false
  | some cw => !(s.inputs.cmdValid && s.inputs.commandWord == cw)

/-- A write request. -/
def ChannelRequest.isWrite : ChannelRequest → Bool
  | .write _ _ => true
  | .read _ => false

/-- A read request. -/
def ChannelRequest.isRead : ChannelRequest → Bool
  | .write _ _ => false
  | .read _ => true

/-- The bytes of a request that a write completion says are on the wire: the first `k` of them for `Count(k)`; after a hard
error a number of them that is not known, `errBytes` (20_memory R51, log 10, log 19). -/
def ChannelRequest.sent (r : ChannelRequest) (w : WriteCompletion) (errBytes : Nat) : List Byte :=
  match r, w with
  | .write _ bytes, .count k => bytes.take k.toNat
  | .write _ bytes, .error _ => bytes.take errBytes
  | .read _, _ => []

/-- The requests accepted and not yet completed, oldest first (10_state R36 (a)). -/
def Channel.outstanding (c : Channel) : List ChannelRequest := c.pending.map Pending.request

/-- A write completes: the oldest outstanding write is done, and its sent bytes are on the wire (R51, R53, log 9). -/
def Channel.completeWrite (c : Channel) (w : WriteCompletion) (errBytes : Nat) : Channel :=
  match c.outstanding.find? ChannelRequest.isWrite with
  | some r => ⟨c.pending.eraseP (ChannelRequest.isWrite ∘ Pending.request), c.wire ++ r.sent w errBytes⟩
  | none => c

/-- A read completes: the oldest outstanding read is done (R52, R53, log 9). -/
def Channel.completeRead (c : Channel) : Channel :=
  { c with pending := c.pending.eraseP (ChannelRequest.isRead ∘ Pending.request) }

/-- The requests still to be completed have waited one edge more (20_memory R55). -/
def Channel.wait (c : Channel) : Channel :=
  { c with pending := c.pending.map fun p => { p with waited := p.waited + 1 } }

/-- The channel takes a request (10_state R26, R28, R36 (a)). -/
def Channel.take (c : Channel) (r : ChannelRequest) : Channel := { c with pending := c.pending ++ [⟨r, 0⟩] }

/-- The request that transfers at this edge. -/
def State.requestTransferred (s : State) : Option ChannelRequest :=
  if s.writeRequestTransfers then some s.regs.outputs.writeRequest
  else if s.readRequestTransfers then some s.regs.outputs.readRequest
  else none

/-- The channel's completions at this edge. -/
def State.channelCompletes (s : State) : Channel :=
  let c := match s.inputs.writeCompletion with
    | some w => s.channel.completeWrite w (Config.freeErrorBytes s.edge)
    | none => s.channel
  if s.inputs.readCompletion.isSome then c.completeRead else c

/-- The channel's edge: its completions belong to requests taken at earlier edges (R53), what is left waits one edge more (R55),
then the request that transfers now is taken, and a completion at that very edge leaves it outstanding (log 24). Reset does not cancel a request (70_reset R171). -/
def State.channelEdge (s : State) : Channel :=
  match s.requestTransferred with
  | some r => s.channelCompletes.wait.take r
  | none => s.channelCompletes.wait

/-- A write completion in any state other than WR_WAIT (41_exchange R124), or one that answers no request (20_memory R53), at
reset edges too (log 8). -/
def State.strayWrite (s : State) : Bool :=
  s.inputs.wrDoneValid && (s.regs.seq != .wrWait || !s.channel.outstanding.any ChannelRequest.isWrite)

/-- The same of a read completion (R124, R53, log 8). -/
def State.strayRead (s : State) : Bool :=
  s.inputs.rdDoneValid && (s.regs.seq != .rdWait || !s.channel.outstanding.any ChannelRequest.isRead)

/-- The bytes a request asks for: the `n` of `ChWrite`, the `m` of `ChRead` (20_memory R51, R52). -/
def ChannelRequest.byteCount (r : ChannelRequest) : Nat :=
  match r with
  | .write len _ => len.toNat
  | .read max => max.toNat

/-- The requests a completion at this edge can be of: those outstanding, and the one that transfers at this very edge, whose
completion is early (20_memory R53, log 18). -/
def State.completable (s : State) : List ChannelRequest := s.channel.outstanding ++ s.requestTransferred.toList

/-- A write completion carries a count above the request it is of, whether or not the block consumes it (R54, log 18). -/
def State.writeOverCount (s : State) : Bool :=
  s.inputs.wrDoneValid && !s.inputs.wrDoneErr &&
    (s.completable.find? ChannelRequest.isWrite).any fun r => decide (r.byteCount < s.inputs.wrDoneCount.toNat)

/-- The same of a read completion (R54, log 18). -/
def State.readOverCount (s : State) : Bool :=
  s.inputs.rdDoneValid && !s.inputs.rdDoneErr &&
    (s.completable.find? ChannelRequest.isRead).any fun r => decide (r.byteCount < s.inputs.rdDoneCount.toNat)

/-- A completion carries a count above its request: the request the channel completes (20_memory R54), or the one the block takes
it for (R115, R117); the two differ only after a reset in flight (70_reset R187, log 18). -/
def State.overCount (s : State) : Bool :=
  s.writeOverCount || s.readOverCount ||
  (s.consumesWrite && !s.inputs.wrDoneErr && decide (s.inputs.wrDoneCount.toNat > s.regs.lenQ.toNat)) ||
  (s.consumesRead && !s.inputs.rdDoneErr && decide (s.inputs.rdDoneCount.toNat > rspLen.toNat))

/-- The channel's bound on a request, counted in edges (20_memory R55, log 17). -/
def ChannelRequest.timeout (r : ChannelRequest) : Nat :=
  match r with
  | .write _ _ => Config.chWriteTimeout
  | .read _ => Config.chReadTimeout

/-- A request still outstanding before this edge has waited longer than its bound allows, so a completion now is late and none is
a breach too (10_state R39, 20_memory R55, log 23). -/
def State.overdue (s : State) : Bool := s.channel.pending.any fun p => decide (p.request.timeout < p.waited)

/-- The fault bits after this edge: no step clears one (00_scope R11). -/
def State.faultsEdge (s : State) : FaultBits where
  strayCompletion := s.faults.strayCompletion || s.strayWrite || s.strayRead
  countOverRequest := s.faults.countOverRequest || s.overCount
  completionOverdue := s.faults.completionOverdue || s.overdue
  callerWithdrewCommand := s.faults.callerWithdrewCommand || s.withdrawsCommand

/-- Everything around the block moves by the state `s` before the edge; `t` is that state after the block's own edge. -/
def State.advance (s t : State) : State :=
  { t with
    caller := s.callerEdge
    channel := s.channelEdge
    faults := s.faultsEdge
    env := s.env.tail
    edge := s.edge + 1
    trace := s.trace ++ s.portEvent.toList }

/-- An exchange is in flight: a command has been accepted and its result not consumed (00_scope glossary, R65). -/
def Regs.inFlight (r : Regs) : Bool := r.seq != .idle

/-- The launch premise this edge breaks, if any: exclusive use of the channel, and no close, during an exchange (70_reset R175,
R180, 93 U14, U18, log 12). -/
def State.brokenPremise (s : State) : Option Refusal :=
  if s.regs.inFlight && s.inputs.otherAgent then some .channelShared
  else if s.regs.inFlight && s.inputs.channelClosed then some .channelClosedInFlight
  else none

/-- One rising edge of `clk`: the block, the caller and the channel (00_scope R6, 10_state R21). -/
def State.clockEdge (s : State) : Host.Outcome State Fault Refusal :=
  match s.brokenPremise with
  | some r => .refused r
  | none =>
    match s.blockEdge with
    | .next t => .next (s.advance t)
    | .fault f => .fault f
    | .refused r => .refused r

end Sys2Proof.Machine
end

