-- ==== Sys2Proof/Machine/Step.lean ====
section
/-! DEFINITION. step, and how the host places one instruction. -/

namespace Sys2Proof.Machine

/-- One step is one rising edge of `clk` (10_state R21). -/
def step : State → Host.Outcome State Fault Refusal := State.clockEdge

/-- `s` with a row's word presented on the command port at the coming edge, nothing else asserted there, and the sequencer in
IDLE, where a command is accepted (log 3). -/
def State.withFetchWord (s : State) (nbits w : Nat) : State :=
  { s with
    regs := { s.regs with seq := .idle }
    env := Inputs.presenting (BitVec.ofNat 19 (w % 2 ^ nbits)) :: s.env.tail }

end Sys2Proof.Machine
end

