-- ==== Sys2Proof/Laws/State.lean ====
section
/-! SUPPORT. One lemma per field per update of the state and of the registers, each true by rfl. -/

namespace Sys2Proof.Machine

section Regs
variable (r : Regs)

/-! `Regs.accept` writes `op_q` and clears four result fields. -/

@[simp] theorem Regs.accept_seq (op : BitVec 2) : (r.accept op).seq = r.seq := rfl
@[simp] theorem Regs.accept_opQ (op : BitVec 2) : (r.accept op).opQ = op := rfl
@[simp] theorem Regs.accept_lenQ (op : BitVec 2) : (r.accept op).lenQ = r.lenQ := rfl
@[simp] theorem Regs.accept_frameQ (op : BitVec 2) : (r.accept op).frameQ = r.frameQ := rfl
@[simp] theorem Regs.accept_rspStatusQ (op : BitVec 2) : (r.accept op).rspStatusQ = r.rspStatusQ := rfl
@[simp] theorem Regs.accept_rspValueQ (op : BitVec 2) : (r.accept op).rspValueQ = 0 := rfl
@[simp] theorem Regs.accept_rspExpectedQ (op : BitVec 2) : (r.accept op).rspExpectedQ = 0 := rfl
@[simp] theorem Regs.accept_rspActualQ (op : BitVec 2) : (r.accept op).rspActualQ = 0 := rfl
@[simp] theorem Regs.accept_rspCauseQ (op : BitVec 2) : (r.accept op).rspCauseQ = 0 := rfl

/-! `Regs.startWrite` writes `len_q`, `frame_q` and `state`. -/

@[simp] theorem Regs.startWrite_seq (f : Frame) : (r.startWrite f).seq = .wrReq := rfl
@[simp] theorem Regs.startWrite_opQ (f : Frame) : (r.startWrite f).opQ = r.opQ := rfl
@[simp] theorem Regs.startWrite_lenQ (f : Frame) : (r.startWrite f).lenQ = f.len := rfl
@[simp] theorem Regs.startWrite_frameQ (f : Frame) : (r.startWrite f).frameQ = f.data := rfl
@[simp] theorem Regs.startWrite_rspStatusQ (f : Frame) : (r.startWrite f).rspStatusQ = r.rspStatusQ := rfl
@[simp] theorem Regs.startWrite_rspValueQ (f : Frame) : (r.startWrite f).rspValueQ = r.rspValueQ := rfl
@[simp] theorem Regs.startWrite_rspExpectedQ (f : Frame) : (r.startWrite f).rspExpectedQ = r.rspExpectedQ := rfl
@[simp] theorem Regs.startWrite_rspActualQ (f : Frame) : (r.startWrite f).rspActualQ = r.rspActualQ := rfl
@[simp] theorem Regs.startWrite_rspCauseQ (f : Frame) : (r.startWrite f).rspCauseQ = r.rspCauseQ := rfl

/-! `Regs.finish` writes `rsp_status_q` and `state`. -/

@[simp] theorem Regs.finish_seq (st : Status) : (r.finish st).seq = .resp := rfl
@[simp] theorem Regs.finish_opQ (st : Status) : (r.finish st).opQ = r.opQ := rfl
@[simp] theorem Regs.finish_lenQ (st : Status) : (r.finish st).lenQ = r.lenQ := rfl
@[simp] theorem Regs.finish_frameQ (st : Status) : (r.finish st).frameQ = r.frameQ := rfl
@[simp] theorem Regs.finish_rspStatusQ (st : Status) : (r.finish st).rspStatusQ = st := rfl
@[simp] theorem Regs.finish_rspValueQ (st : Status) : (r.finish st).rspValueQ = r.rspValueQ := rfl
@[simp] theorem Regs.finish_rspExpectedQ (st : Status) : (r.finish st).rspExpectedQ = r.rspExpectedQ := rfl
@[simp] theorem Regs.finish_rspActualQ (st : Status) : (r.finish st).rspActualQ = r.rspActualQ := rfl
@[simp] theorem Regs.finish_rspCauseQ (st : Status) : (r.finish st).rspCauseQ = r.rspCauseQ := rfl

/-! `Regs.endAtAcceptance` writes `len_q`, `frame_q`, `rsp_status_q` and `state`. -/

@[simp] theorem Regs.endAtAcceptance_seq (st : Status) : (r.endAtAcceptance st).seq = .resp := rfl
@[simp] theorem Regs.endAtAcceptance_opQ (st : Status) : (r.endAtAcceptance st).opQ = r.opQ := rfl
@[simp] theorem Regs.endAtAcceptance_lenQ (st : Status) : (r.endAtAcceptance st).lenQ = 0 := rfl
@[simp] theorem Regs.endAtAcceptance_frameQ (st : Status) : (r.endAtAcceptance st).frameQ = 0 := rfl
@[simp] theorem Regs.endAtAcceptance_rspStatusQ (st : Status) : (r.endAtAcceptance st).rspStatusQ = st := rfl
@[simp] theorem Regs.endAtAcceptance_rspValueQ (st : Status) : (r.endAtAcceptance st).rspValueQ = r.rspValueQ := rfl
@[simp] theorem Regs.endAtAcceptance_rspExpectedQ (st : Status) : (r.endAtAcceptance st).rspExpectedQ = r.rspExpectedQ := rfl
@[simp] theorem Regs.endAtAcceptance_rspActualQ (st : Status) : (r.endAtAcceptance st).rspActualQ = r.rspActualQ := rfl
@[simp] theorem Regs.endAtAcceptance_rspCauseQ (st : Status) : (r.endAtAcceptance st).rspCauseQ = r.rspCauseQ := rfl

end Regs

section State
variable (s t : State)

/-! `State.resetEdge` writes the registers. -/

@[simp] theorem State.resetEdge_regs : (s.resetEdge).regs = Regs.reset := rfl
@[simp] theorem State.resetEdge_caller : (s.resetEdge).caller = s.caller := rfl
@[simp] theorem State.resetEdge_channel : (s.resetEdge).channel = s.channel := rfl
@[simp] theorem State.resetEdge_faults : (s.resetEdge).faults = s.faults := rfl
@[simp] theorem State.resetEdge_env : (s.resetEdge).env = s.env := rfl
@[simp] theorem State.resetEdge_edge : (s.resetEdge).edge = s.edge := rfl
@[simp] theorem State.resetEdge_trace : (s.resetEdge).trace = s.trace := rfl

/-! `State.commandEdge` writes the registers. -/

@[simp] theorem State.commandEdge_caller (a : Regs) : (s.commandEdge a).caller = s.caller := rfl
@[simp] theorem State.commandEdge_channel (a : Regs) : (s.commandEdge a).channel = s.channel := rfl
@[simp] theorem State.commandEdge_faults (a : Regs) : (s.commandEdge a).faults = s.faults := rfl
@[simp] theorem State.commandEdge_env (a : Regs) : (s.commandEdge a).env = s.env := rfl
@[simp] theorem State.commandEdge_edge (a : Regs) : (s.commandEdge a).edge = s.edge := rfl
@[simp] theorem State.commandEdge_trace (a : Regs) : (s.commandEdge a).trace = s.trace := rfl

/-! `State.advance` writes everything but the registers. -/

@[simp] theorem State.advance_regs : (s.advance t).regs = t.regs := rfl
@[simp] theorem State.advance_caller : (s.advance t).caller = s.callerEdge := rfl
@[simp] theorem State.advance_channel : (s.advance t).channel = s.channelEdge := rfl
@[simp] theorem State.advance_faults : (s.advance t).faults = s.faultsEdge := rfl
@[simp] theorem State.advance_env : (s.advance t).env = s.env.tail := rfl
@[simp] theorem State.advance_edge : (s.advance t).edge = s.edge + 1 := rfl
@[simp] theorem State.advance_trace : (s.advance t).trace = s.trace ++ s.portEvent.toList := rfl

variable (c : Channel) (q : ChannelRequest)

/-! `Channel.take` appends to the pending requests. -/

@[simp] theorem Channel.take_pending : (c.take q).pending = c.pending ++ [⟨q, 0⟩] := rfl
@[simp] theorem Channel.take_wire : (c.take q).wire = c.wire := rfl

/-! `Channel.wait` adds an edge to each pending request. -/

@[simp] theorem Channel.wait_pending : (c.wait).pending = c.pending.map fun p => { p with waited := p.waited + 1 } := rfl
@[simp] theorem Channel.wait_wire : (c.wait).wire = c.wire := rfl

/-! `Channel.completeRead` takes the oldest read off the pending requests. -/

@[simp] theorem Channel.completeRead_pending :
    (c.completeRead).pending = c.pending.eraseP (ChannelRequest.isRead ∘ Pending.request) := rfl
@[simp] theorem Channel.completeRead_wire : (c.completeRead).wire = c.wire := rfl

/-! The inputs of an edge. -/

@[simp] theorem State.inputs_cons (i : Inputs) (rest : List Inputs) (h : s.env = i :: rest) : s.inputs = i := by
  simp [State.inputs, h]

/-! Reset. -/

@[simp] theorem State.reset_regs : State.reset.regs = Regs.reset := rfl
@[simp] theorem Regs.reset_seq : Regs.reset.seq = .idle := rfl

end State

end Sys2Proof.Machine
end

