-- ==== Sys2Proof/Laws/Ops.lean ====
section
/-! SUPPORT. What each shared operation can do, said once: one lemma per operation, which later proofs cite. -/

namespace Sys2Proof.Machine

/-- Every meaning is one `commandEdge`: the registers each command is accepted with. -/
def acceptedRegs (i : Instr) (r : Regs) : Regs :=
  match i with
  | .getfb _ _ => (r.accept 0).startWrite encodeGetFeedback
  | .gettg _ _ => (r.accept 1).startWrite encodeGetTarget
  | .settg v => (r.accept 2).startWrite (encodeSetTarget v)
  | .settgC v => if inRange v then (r.accept 2).startWrite (encodeSetTarget v)
      else (r.accept 2).endAtAcceptance .valueRejected
  | .op3 _ _ => (r.accept 3).endAtAcceptance .illegalOp

theorem exec_eq_commandEdge (i : Instr) (s : State) : exec i s = .next (s.commandEdge (acceptedRegs i s.regs)) := by
  cases i <;> rfl

/-- In IDLE the command's own registers. -/
theorem State.commandEdge_idle {s : State} (a : Regs) (h : s.regs.seq = .idle) : (s.commandEdge a).regs = a := by
  simp [State.commandEdge, h]

/-- In every other state the edge of the exchange in flight, whatever the command presented. -/
theorem State.commandEdge_busy {s : State} (a : Regs) (h : s.regs.seq ≠ .idle) :
    s.commandEdge a = { s with regs := s.regs.exchangeEdge s.inputs } := by
  unfold State.commandEdge
  split
  · contradiction
  · rfl

/-- The four ways a write completion ends (41_exchange R115). -/
theorem Regs.writeDone_cases (r : Regs) (i : Inputs) :
    (i.wrDoneErr = true ∧ r.writeDone i = { r with rspCauseQ := i.wrDoneCause }.finish .writeFailed) ∨
    (i.wrDoneErr = false ∧ i.wrDoneCount ≠ r.lenQ ∧
      r.writeDone i = { r with rspExpectedQ := r.lenQ, rspActualQ := i.wrDoneCount }.finish .writeIncomplete) ∨
    (i.wrDoneErr = false ∧ i.wrDoneCount = r.lenQ ∧ r.opQ = 2 ∧ r.writeDone i = r.finish .okAck) ∨
    (i.wrDoneErr = false ∧ i.wrDoneCount = r.lenQ ∧ r.opQ ≠ 2 ∧ r.writeDone i = { r with seq := .rdReq }) := by
  unfold Regs.writeDone
  split
  · exact .inl ⟨‹_›, rfl⟩
  · rename_i he
    have he : i.wrDoneErr = false := by simpa using he
    split
    · exact .inr (.inl ⟨he, ‹_›, rfl⟩)
    · rename_i hc
      have hc : i.wrDoneCount = r.lenQ := by simpa using hc
      split
      · exact .inr (.inr (.inl ⟨he, hc, ‹_›, rfl⟩))
      · exact .inr (.inr (.inr ⟨he, hc, ‹_›, rfl⟩))

/-- The three ways a read completion ends (R117). -/
theorem Regs.readDone_cases (r : Regs) (i : Inputs) :
    (i.rdDoneErr = true ∧ r.readDone i = { r with rspCauseQ := i.rdDoneCause }.finish .readFailed) ∨
    (i.rdDoneErr = false ∧ i.rdDoneCount ≠ 2 ∧
      r.readDone i = { r with rspExpectedQ := 2, rspActualQ := i.rdDoneCount }.finish .readIncomplete) ∨
    (i.rdDoneErr = false ∧ i.rdDoneCount = 2 ∧
      r.readDone i = { r with rspValueQ := decodeResponse (firstByte i.rdDoneData) (secondByte i.rdDoneData) }.finish .okValue) := by
  unfold Regs.readDone
  split
  · exact .inl ⟨‹_›, rfl⟩
  · rename_i he
    have he : i.rdDoneErr = false := by simpa using he
    split
    · exact .inr (.inl ⟨he, ‹_›, rfl⟩)
    · rename_i hc
      exact .inr (.inr ⟨he, by simpa [rspLen] using hc, rfl⟩)

/-- What the edge of an exchange in flight can do: nothing, one move of `state` alone, or a completion. -/
theorem Regs.exchangeEdge_cases (r : Regs) (i : Inputs) :
    r.exchangeEdge i = r ∨
    (r.seq = .wrReq ∧ i.wrReqReady = true ∧ r.exchangeEdge i = { r with seq := .wrWait }) ∨
    (r.seq = .wrWait ∧ i.wrDoneValid = true ∧ r.exchangeEdge i = r.writeDone i) ∨
    (r.seq = .rdReq ∧ i.rdReqReady = true ∧ r.exchangeEdge i = { r with seq := .rdWait }) ∨
    (r.seq = .rdWait ∧ i.rdDoneValid = true ∧ r.exchangeEdge i = r.readDone i) ∨
    (r.seq = .resp ∧ i.rspReady = true ∧ r.exchangeEdge i = { r with seq := .idle }) := by
  cases h : r.seq <;>
    simp only [Regs.exchangeEdge, h, Regs.writeRequestEdge, Regs.writeWaitEdge, Regs.readRequestEdge, Regs.readWaitEdge,
      Regs.resultEdge] <;>
    (try split) <;> simp_all

/-- An edge of the exchange in flight writes no request register. -/
theorem Regs.exchangeEdge_keeps_request (r : Regs) (i : Inputs) :
    (r.exchangeEdge i).opQ = r.opQ ∧ (r.exchangeEdge i).lenQ = r.lenQ ∧ (r.exchangeEdge i).frameQ = r.frameQ := by
  have hw := r.writeDone_cases i
  have hr := r.readDone_cases i
  rcases r.exchangeEdge_cases i with h | ⟨-, -, h⟩ | ⟨-, -, h⟩ | ⟨-, -, h⟩ | ⟨-, -, h⟩ | ⟨-, -, h⟩ <;> rw [h]
  all_goals first
    | exact ⟨rfl, rfl, rfl⟩
    | (rcases hw with ⟨-, h⟩ | ⟨-, -, h⟩ | ⟨-, -, -, h⟩ | ⟨-, -, -, h⟩ <;> rw [h] <;> exact ⟨rfl, rfl, rfl⟩)
    | (rcases hr with ⟨-, h⟩ | ⟨-, -, h⟩ | ⟨-, -, h⟩ <;> rw [h] <;> exact ⟨rfl, rfl, rfl⟩)

end Sys2Proof.Machine
end

