-- ==== Sys2Proof/Laws/Agents.lean ====
section
/-! SUPPORT. What the caller's and the channel's edges can do. -/

namespace Sys2Proof.Machine

/-- The request transferred at an edge and the state of the sequencer say each other (10_state R26, R28). -/
theorem State.requestTransferred_cases (s : State) :
    (s.requestTransferred = none) ∨
    (s.regs.seq = .wrReq ∧ s.inputs.rst = false ∧ s.inputs.wrReqReady = true ∧
      s.requestTransferred = some s.regs.outputs.writeRequest) ∨
    (s.regs.seq = .rdReq ∧ s.inputs.rst = false ∧ s.inputs.rdReqReady = true ∧ s.requestTransferred = some (.read 2)) := by
  unfold State.requestTransferred State.writeRequestTransfers State.readRequestTransfers
  split
  · rename_i h; simp_all [Regs.outputs]
  · split
    · rename_i h; simp_all [Regs.outputs, Outputs.readRequest, rspLen]
    · simp

/-! What each of the channel's operations does to the outstanding requests. -/

@[simp] theorem Channel.outstanding_mk (l : List Pending) (w : List Byte) :
    Channel.outstanding ⟨l, w⟩ = l.map Pending.request := rfl

@[simp] theorem Channel.take_outstanding (c : Channel) (q : ChannelRequest) : (c.take q).outstanding = c.outstanding ++ [q] := by
  simp [Channel.outstanding]

@[simp] theorem Channel.wait_outstanding (c : Channel) : c.wait.outstanding = c.outstanding := by
  simp [Channel.outstanding]

@[simp] theorem Channel.completeRead_outstanding (c : Channel) :
    c.completeRead.outstanding = c.outstanding.eraseP ChannelRequest.isRead := by
  simp [Channel.outstanding, List.eraseP_map]

/-- A write completion changes the outstanding requests only by taking the oldest write off. -/
theorem Channel.completeWrite_outstanding (c : Channel) (w : WriteCompletion) (n : Nat) :
    (c.completeWrite w n).outstanding = c.outstanding.eraseP ChannelRequest.isWrite := by
  unfold Channel.completeWrite
  split
  · simp [Channel.outstanding, List.eraseP_map]
  · rename_i h
    rw [List.find?_eq_none] at h
    exact (List.eraseP_of_forall_not h).symm

/-- A write completion only ever appends to the wire. -/
theorem Channel.completeWrite_wire (c : Channel) (w : WriteCompletion) (n : Nat) :
    (c.completeWrite w n).wire = c.wire ∨
    ∃ q ∈ c.outstanding, q.isWrite = true ∧ (c.completeWrite w n).wire = c.wire ++ q.sent w n := by
  unfold Channel.completeWrite
  split
  · rename_i q h
    exact .inr ⟨q, List.mem_of_find?_eq_some h, List.find?_some h, rfl⟩
  · exact .inl rfl

/-- The bytes a completion puts on the wire are the first ones of its request, in order (20_memory R51). -/
theorem ChannelRequest.sent_eq_take (q : ChannelRequest) (w : WriteCompletion) (n : Nat) :
    q.sent w n = [] ∨ ∃ len bytes k, q = .write len bytes ∧ q.sent w n = bytes.take k := by
  cases q with
  | read _ => exact .inl (by simp [ChannelRequest.sent])
  | write len bytes => cases w <;> exact .inr ⟨len, bytes, _, rfl, rfl⟩

/-- The outstanding requests after an edge: without the oldest of each kind completed, and with the one taken. -/
theorem State.channelEdge_outstanding (s : State) :
    s.channelEdge.outstanding =
      (let w := if s.inputs.wrDoneValid then s.channel.outstanding.eraseP ChannelRequest.isWrite else s.channel.outstanding
       if s.inputs.rdDoneValid then w.eraseP ChannelRequest.isRead else w) ++ s.requestTransferred.toList := by
  have hw : s.inputs.writeCompletion.isSome = s.inputs.wrDoneValid := by unfold Inputs.writeCompletion; split <;> simp_all
  have hr : s.inputs.readCompletion.isSome = s.inputs.rdDoneValid := by unfold Inputs.readCompletion; split <;> simp_all
  have hc : s.channelEdge.outstanding = s.channelCompletes.outstanding ++ s.requestTransferred.toList := by
    unfold State.channelEdge; cases s.requestTransferred <;> simp
  rw [hc, ← hw, ← hr]
  unfold State.channelCompletes
  cases s.inputs.writeCompletion <;> cases s.inputs.readCompletion <;> simp [Channel.completeWrite_outstanding]

/-- A request pending after an edge was pending before it and has waited one edge more, or is the one taken at it. -/
theorem State.mem_channelEdge_pending {s : State} {p : Pending} (h : p ∈ s.channelEdge.pending) :
    (∃ q ∈ s.channel.pending, p = ⟨q.request, q.waited + 1⟩) ∨ (s.requestTransferred = some p.request ∧ p.waited = 0) := by
  have hw : ∀ (c : Channel) w n, ∀ q ∈ (c.completeWrite w n).pending, q ∈ c.pending := by
    intro c w n q hq
    unfold Channel.completeWrite at hq
    split at hq
    · exact List.mem_of_mem_eraseP hq
    · exact hq
  have hc : ∀ q ∈ s.channelCompletes.pending, q ∈ s.channel.pending := by
    intro q hq
    unfold State.channelCompletes at hq
    cases hcw : s.inputs.writeCompletion <;> simp only [hcw] at hq <;> split at hq <;>
      first
        | exact hq
        | exact hw _ _ _ _ hq
        | exact List.mem_of_mem_eraseP hq
        | exact hw _ _ _ _ (List.mem_of_mem_eraseP hq)
  have hwait : p ∈ s.channelCompletes.wait.pending → ∃ q ∈ s.channel.pending, p = ⟨q.request, q.waited + 1⟩ := by
    intro hp
    obtain ⟨q, hq, rfl⟩ := List.mem_map.1 hp
    exact ⟨q, hc q hq, rfl⟩
  unfold State.channelEdge at h
  split at h
  · rename_i r hr
    rcases List.mem_append.1 h with h | h
    · exact .inl (hwait h)
    · rw [List.mem_singleton.1 h]
      exact .inr ⟨hr, rfl⟩
  · exact .inl (hwait h)

/-- When a request is overdue (20_memory R55). -/
theorem State.overdue_iff (s : State) : s.overdue = true ↔ ∃ p ∈ s.channel.pending, p.request.timeout < p.waited := by
  simp only [State.overdue, List.any_eq_true, decide_eq_true_eq]

/-- When a write completion's count is above its request's (20_memory R54). -/
theorem State.writeOverCount_iff (s : State) :
    s.writeOverCount = true ↔ s.inputs.wrDoneValid = true ∧ s.inputs.wrDoneErr = false ∧
      ∃ r, s.completable.find? ChannelRequest.isWrite = some r ∧ r.byteCount < s.inputs.wrDoneCount.toNat := by
  simp only [State.writeOverCount, Bool.and_eq_true, Bool.not_eq_true', and_assoc, Option.any_eq_true, decide_eq_true_eq]

/-- When a read completion's count is above its request's (R54). -/
theorem State.readOverCount_iff (s : State) :
    s.readOverCount = true ↔ s.inputs.rdDoneValid = true ∧ s.inputs.rdDoneErr = false ∧
      ∃ r, s.completable.find? ChannelRequest.isRead = some r ∧ r.byteCount < s.inputs.rdDoneCount.toNat := by
  simp only [State.readOverCount, Bool.and_eq_true, Bool.not_eq_true', and_assoc, Option.any_eq_true, decide_eq_true_eq]

/-- The requests that can complete are the outstanding ones alone where the block waits for a completion. -/
theorem State.completable_of_waiting {s : State} (h : s.regs.seq = .wrWait ∨ s.regs.seq = .rdWait) :
    s.completable = s.channel.outstanding := by
  rcases s.requestTransferred_cases with e | ⟨q, -, -, -⟩ | ⟨q, -, -, -⟩
  · simp [State.completable, e]
  · rcases h with h | h <;> rw [h] at q <;> cases q
  · rcases h with h | h <;> rw [h] at q <;> cases q

/-- A recorded fault bit stays recorded. -/
theorem State.faultsEdge_keeps (s : State) (f : Fault) (h : s.faults.has f = true) : s.faultsEdge.has f = true := by
  cases f <;> simp_all [State.faultsEdge, FaultBits.has]

end Sys2Proof.Machine
end

