-- ==== Sys2Proof/Machine/Exchange.lean ====
section
/-! DEFINITION. The exchange level: each command as one function of the channel's completions, as 41_exchange R118 to R122
write it. The clock level (exec, step) refines it (R127); nothing in the step calls this file. -/

namespace Sys2Proof.Machine

/-- What an exchange does: its channel requests, in order, and its result. -/
structure Exchange where
  requests : List ChannelRequest
  result   : Result
deriving DecidableEq, Repr

/-- The result a read completion gives a GET command (R118, R119, last three lines). -/
def readResult : ReadCompletion → Result
  | .error c => .readFailed c
  | .noByte => .readIncomplete 2 0
  | .oneByte _ => .readIncomplete 2 1
  | .overCount => .readIncomplete 2 3
  | .twoBytes lo hi => .okValue (decodeResponse lo hi)

/-- GETFB as a function of its completions (R118). -/
def exchangeGetfb (w : WriteCompletion) (r : ReadCompletion) : Exchange :=
  match w with
  | .error c => ⟨[.write 1 [0xA5]], .writeFailed c⟩
  | .count k =>
    if k ≠ 1 then ⟨[.write 1 [0xA5]], .writeIncomplete 1 k⟩
    else ⟨[.write 1 [0xA5], .read 2], readResult r⟩

/-- GETTG as a function of its completions (R119). -/
def exchangeGettg (w : WriteCompletion) (r : ReadCompletion) : Exchange :=
  match w with
  | .error c => ⟨[.write 1 [0xA3]], .writeFailed c⟩
  | .count k =>
    if k ≠ 1 then ⟨[.write 1 [0xA3]], .writeIncomplete 1 k⟩
    else ⟨[.write 1 [0xA3], .read 2], readResult r⟩

/-- SETTG v as a function of its write completion (R120). -/
def exchangeSettg (v : Half) (w : WriteCompletion) : Exchange :=
  match w with
  | .error c => ⟨[.write 2 [setByte0 v, setByte1 v]], .writeFailed c⟩
  | .count k =>
    if k ≠ 2 then ⟨[.write 2 [setByte0 v, setByte1 v]], .writeIncomplete 2 k⟩
    else ⟨[.write 2 [setByte0 v, setByte1 v]], .okAck⟩

/-- SETTG.C v as a function of its write completion (R121). -/
def exchangeSettgC (v : Half) (w : WriteCompletion) : Exchange :=
  if inRange v then exchangeSettg v w else ⟨[], .valueRejected⟩

/-- OP3 (R122). -/
def exchangeOp3 : Exchange := ⟨[], .illegalOp⟩

/-- `Exchange : Command -> ChannelOracle -> Result` with its requests (R127); a completion the exchange does not reach has no
effect on it. -/
def exchange (i : Instr) (w : WriteCompletion) (r : ReadCompletion) : Exchange :=
  match i with
  | .getfb _ _ => exchangeGetfb w r
  | .gettg _ _ => exchangeGettg w r
  | .settg v => exchangeSettg v w
  | .settgC v => exchangeSettgC v w
  | .op3 _ _ => exchangeOp3

/-- The frame a command sends, if it sends one (R90 to R94, R121, R122). -/
def frameOf : Instr → Option Frame
  | .getfb _ _ => some encodeGetFeedback
  | .gettg _ _ => some encodeGetTarget
  | .settg v => some (encodeSetTarget v)
  | .settgC v => if inRange v then some (encodeSetTarget v) else none
  | .op3 _ _ => none

/-- The port events of a whole exchange: the command, each request followed by its completion, the result. -/
def exchangeEvents (cw : CommandWord) (w : WriteCompletion) (r : ReadCompletion) : List PortEvent :=
  let i := decodeWord cw
  let e := exchange i w r
  let middle := match e.requests with
    | [] => []
    | [q] => [.request q, .writeDone w]
    | q :: q' :: _ => [.request q, .writeDone w, .request q', .readDone r]
  .command cw :: middle ++ [.result i.op e.result]

end Sys2Proof.Machine
end

