-- ==== Sys2Proof/Safety.lean ====
section
/-! DEFINITION. What a good state and a good run are, in the terms the statements use. -/

namespace Sys2Proof

/-- A sample with no reset and no broken launch premise (70_reset R170, R175, R180). -/
def Inputs.undisturbed (i : Inputs) : Prop := i.rst = false ∧ i.otherAgent = false ∧ i.channelClosed = false

/-- The signal a state of the exchange waits for (70_reset R183). -/
def Inputs.answers (i : Inputs) : Machine.Seq → Bool
  | .idle => i.cmdValid
  | .wrReq => i.wrReqReady
  | .wrWait => i.wrDoneValid
  | .rdReq => i.rdReqReady
  | .rdWait => i.rdDoneValid
  | .resp => i.rspReady

end Sys2Proof

namespace Sys2Proof.Machine

/-- `k` edges from `s` end in `t`, none of them refused. -/
def State.runsTo (s : State) (k : Nat) (t : State) : Prop := Host.Core.run Sys2Proof.core k s = .next t

/-- This edge records no contract violation (10_state R39). -/
def State.conforming (s : State) : Prop :=
  s.withdrawsCommand = false ∧ s.strayWrite = false ∧ s.strayRead = false ∧ s.overCount = false ∧
  s.overdue = false

/-- The result registers the status does not name hold 0 (41_exchange R112). -/
structure Regs.FieldsOk (r : Regs) : Prop where
  value : r.rspStatusQ ≠ .okValue → r.rspValueQ = 0
  counts : r.rspStatusQ ≠ .writeIncomplete → r.rspStatusQ ≠ .readIncomplete → r.rspExpectedQ = 0 ∧ r.rspActualQ = 0
  cause : r.rspStatusQ ≠ .writeFailed → r.rspStatusQ ≠ .readFailed → r.rspCauseQ = 0

/-- The four result fields are clear, as acceptance leaves them (R112). -/
def Regs.Cleared (r : Regs) : Prop :=
  r.rspValueQ = 0 ∧ r.rspExpectedQ = 0 ∧ r.rspActualQ = 0 ∧ r.rspCauseQ = 0

/-- The request registers hold the frame of the command in flight (40_frame_codec R90 to R92). -/
def Regs.RequestOk (r : Regs) : Prop :=
  (r.opQ = 0 ∧ Frame.mk r.lenQ r.frameQ = encodeGetFeedback) ∨
  (r.opQ = 1 ∧ Frame.mk r.lenQ r.frameQ = encodeGetTarget) ∨
  (r.opQ = 2 ∧ ∃ v, Frame.mk r.lenQ r.frameQ = encodeSetTarget v)

/-- The status a presented result carries belongs to its command (60_exceptions R141, column 'raised by'). -/
def Regs.StatusOk (r : Regs) : Prop :=
  match r.rspStatusQ with
  | .okValue => r.opQ = 0 ∨ r.opQ = 1
  | .okAck => r.opQ = 2
  | .writeIncomplete => r.opQ ≠ 3 ∧ r.rspExpectedQ = r.lenQ ∧ r.rspActualQ ≠ r.lenQ
  | .writeFailed => r.opQ ≠ 3
  | .readIncomplete => (r.opQ = 0 ∨ r.opQ = 1) ∧ r.rspExpectedQ = 2 ∧ r.rspActualQ ≠ 2
  | .readFailed => r.opQ = 0 ∨ r.opQ = 1
  | .valueRejected => r.opQ = 2
  | .illegalOp => r.opQ = 3

/-- The register invariant of the block (41_exchange R112, R126 (d), R126 (e); 60_exceptions R141, R148). -/
structure Regs.Inv (r : Regs) : Prop where
  fields : r.FieldsOk
  cleared : r.seq = .wrReq ∨ r.seq = .wrWait ∨ r.seq = .rdReq ∨ r.seq = .rdWait → r.Cleared
  request : r.seq = .wrReq ∨ r.seq = .wrWait → r.RequestOk
  getOnly : r.seq = .rdReq ∨ r.seq = .rdWait → r.RequestOk ∧ r.opQ ≠ 2
  status : r.seq = .resp → r.StatusOk

/-- The channel has outstanding exactly the request the block waits for (R126 (b)). -/
def State.ChannelInStep (s : State) : Prop :=
  match s.regs.seq with
  | .wrWait => s.channel.outstanding = [s.regs.outputs.writeRequest]
  | .rdWait => s.channel.outstanding = [.read 2]
  | _ => s.channel.outstanding = []

/-- The request the block waits for is outstanding and the newest, whatever an earlier reset left behind (70_reset R171). -/
def State.AwaitedOutstanding (s : State) : Prop :=
  (s.regs.seq = .wrWait → s.channel.outstanding.getLast? = some s.regs.outputs.writeRequest) ∧
  (s.regs.seq = .rdWait → s.channel.outstanding.getLast? = some (.read 2))

/-- A frame the block may send (30_encoding R73, R77). -/
def LegalFrame (bytes : List Byte) : Prop :=
  bytes = [opcGetFeedback] ∨ bytes = [opcGetTarget] ∨ ∃ v, bytes = [setByte0 v, setByte1 v]

/-- A byte the block may send (R77). -/
def LegalByte (b : Byte) : Prop :=
  b = opcGetFeedback ∨ b = opcGetTarget ∨ (0xC0 ≤ b.toNat ∧ b.toNat ≤ 0xDF) ∨ b.toNat ≤ 0x7F

/-- A byte stream made of whole frames (R78). -/
def Framed (stream : List Byte) : Prop := ∃ frames : List (List Byte), (∀ f ∈ frames, LegalFrame f) ∧ stream = frames.flatten

/-- Every request outstanding is legal, and every byte on the wire (R77). -/
structure State.WireOk (s : State) : Prop where
  request : s.regs.seq = .wrReq ∨ s.regs.seq = .wrWait → s.regs.RequestOk
  outstanding : ∀ len bytes, ChannelRequest.write len bytes ∈ s.channel.outstanding → LegalFrame bytes
  wire : ∀ b ∈ s.channel.wire, LegalByte b

/-- Where an exchange stands, as the exchange level tells it from the port events alone (41_exchange R118 to R122, R127). -/
inductive Phase where
  | idle
  | writeDue (i : Instr)
  | writeOut (i : Instr)
  | readDue (i : Instr)
  | readOut (i : Instr)
  | resultDue (i : Instr) (r : Result)
deriving DecidableEq, Repr

/-- The exchange level's order of events: a command, its write if it has one, the write's completion, for a GET whose write
was complete one read and its completion, then the result of the command's rule, then the next command; a reset ends
anything (20_memory R64, R65; 41_exchange R126, R127; 70_reset R171). No other order of events is allowed. -/
def Phase.next : Phase → PortEvent → Option Phase
  | _, .reset => some .idle
  | .idle, .command cw =>
    match frameOf (decodeWord cw) with
    | some _ => some (.writeDue (decodeWord cw))
    | none => some (.resultDue (decodeWord cw) (exchange (decodeWord cw) (.count 0) .noByte).result)
  | .writeDue i, .request q =>
    if (frameOf i).map (fun f => ChannelRequest.write f.len (frameBytes f.len f.data)) = some q then some (.writeOut i) else none
  | .writeOut i, .writeDone w =>
    if (exchange i w .noByte).requests.length = 2 then some (.readDue i)
    else some (.resultDue i (exchange i w .noByte).result)
  | .readDue i, .request q => if q = .read 2 then some (.readOut i) else none
  | .readOut i, .readDone r => some (.resultDue i (exchange i (.count 1) r).result)
  | .resultDue i r, .result op r' => if op = i.op ∧ r' = r then some .idle else none
  | _, _ => none

/-- The phase after a trace, if the exchange level allows it. -/
def replay (trace : List PortEvent) : Option Phase :=
  trace.foldl (fun p e => p.bind fun q => q.next e) (some .idle)

/-- The registers stand where the phase says, for the command the phase names. -/
def Phase.Agrees (p : Phase) (r : Regs) : Prop :=
  match p, r.seq with
  | .idle, .idle => True
  | .writeDue i, .wrReq => r.opQ = i.op ∧ frameOf i = some ⟨r.lenQ, r.frameQ⟩ ∧ r.Cleared
  | .writeOut i, .wrWait => r.opQ = i.op ∧ frameOf i = some ⟨r.lenQ, r.frameQ⟩ ∧ r.Cleared
  | .readDue i, .rdReq => r.opQ = i.op ∧ frameOf i = some ⟨r.lenQ, r.frameQ⟩ ∧ i.op ≠ 2 ∧ r.Cleared
  | .readOut i, .rdWait => r.opQ = i.op ∧ frameOf i = some ⟨r.lenQ, r.frameQ⟩ ∧ i.op ≠ 2 ∧ r.Cleared
  | .resultDue i res, .resp => r.opQ = i.op ∧ r.result = res
  | _, _ => False

/-- The clock level refines the exchange level so far: the trace is allowed, and the registers stand where it says (R127). -/
def State.Refines (s : State) : Prop := ∃ p, replay s.trace = some p ∧ p.Agrees s.regs

/-- Registers equal but for `rsp_status_q`, which matters only where a result is presented (10_state R37). -/
structure Regs.SameExchange (r r' : Regs) : Prop where
  seq : r.seq = r'.seq
  opQ : r.opQ = r'.opQ
  lenQ : r.lenQ = r'.lenQ
  frameQ : r.frameQ = r'.frameQ
  value : r.rspValueQ = r'.rspValueQ
  expected : r.rspExpectedQ = r'.rspExpectedQ
  actual : r.rspActualQ = r'.rspActualQ
  cause : r.rspCauseQ = r'.rspCauseQ
  status : r.seq = .resp → r.rspStatusQ = r'.rspStatusQ

/-- How the surroundings serve one exchange: the sample that presents the command, and for each thing the block waits for, the
samples that make it wait and the one that answers (70_reset R183). -/
structure Service where
  command : Inputs
  writeReadyWait : List Inputs
  writeReady : Inputs
  writeDoneWait : List Inputs
  writeDone : Inputs
  readReadyWait : List Inputs
  readReady : Inputs
  readDoneWait : List Inputs
  readDone : Inputs
  resultWait : List Inputs
  takeResult : Inputs

/-- The service is what it says: no reset and no broken premise in it, each waiting sample lacks the answer, each answer is
one. Every other signal of a sample is arbitrary. -/
structure Service.Ok (v : Service) : Prop where
  command : v.command.undisturbed ∧ v.command.cmdValid = true
  writeReadyWait : ∀ i ∈ v.writeReadyWait, i.undisturbed ∧ i.wrReqReady = false
  writeReady : v.writeReady.undisturbed ∧ v.writeReady.wrReqReady = true
  writeDoneWait : ∀ i ∈ v.writeDoneWait, i.undisturbed ∧ i.wrDoneValid = false
  writeDone : v.writeDone.undisturbed ∧ v.writeDone.wrDoneValid = true
  readReadyWait : ∀ i ∈ v.readReadyWait, i.undisturbed ∧ i.rdReqReady = false
  readReady : v.readReady.undisturbed ∧ v.readReady.rdReqReady = true
  readDoneWait : ∀ i ∈ v.readDoneWait, i.undisturbed ∧ i.rdDoneValid = false
  readDone : v.readDone.undisturbed ∧ v.readDone.rdDoneValid = true
  resultWait : ∀ i ∈ v.resultWait, i.undisturbed ∧ i.rspReady = false
  takeResult : v.takeResult.undisturbed ∧ v.takeResult.rspReady = true

/-- The samples an exchange with these requests uses, from the command's transfer to the result's. -/
def Service.samples (v : Service) (requests : List ChannelRequest) : List Inputs :=
  let writePart := v.writeReadyWait ++ [v.writeReady] ++ v.writeDoneWait ++ [v.writeDone]
  let readPart := v.readReadyWait ++ [v.readReady] ++ v.readDoneWait ++ [v.readDone]
  let middle := match requests with
    | [] => []
    | [_] => writePart
    | _ :: _ :: _ => writePart ++ readPart
  v.command :: middle ++ v.resultWait ++ [v.takeResult]

/-- The surroundings answer at once (70_reset R190). -/
def Service.immediate (v : Service) : Prop :=
  v.writeReadyWait = [] ∧ v.writeDoneWait = [] ∧ v.readReadyWait = [] ∧ v.readDoneWait = [] ∧ v.resultWait = []

end Sys2Proof.Machine
end

