-- ==== Sys2Proof/Laws/Step.lean ====
section
/-! SUPPORT. What one step can do, said once. -/

namespace Sys2Proof.Machine

/-- The registers after the block's edge (41_exchange R110). -/
def State.nextRegs (s : State) : Regs :=
  if s.inputs.rst then Regs.reset
  else if s.regs.seq = .idle then
    if s.inputs.cmdValid then acceptedRegs (decodeWord s.inputs.commandWord) s.regs else s.regs
  else s.regs.exchangeEdge s.inputs

/-- The block's edge always has a next state, and changes the registers alone. -/
theorem State.blockEdge_eq (s : State) : s.blockEdge = .next { s with regs := s.nextRegs } := by
  unfold State.blockEdge State.nextRegs
  split
  · rfl
  · cases h : s.regs.seq <;> simp only [reduceCtorEq, if_true, if_false]
    split
    · rw [exec_eq_commandEdge]
      simp [State.commandEdge, h]
    · rfl

/-- A step with no broken premise is the block's edge with the agents' edges around it. -/
theorem step_eq (s : State) (h : s.brokenPremise = none) :
    step s = .next (s.advance { s with regs := s.nextRegs }) := by
  simp [step, State.clockEdge, h, State.blockEdge_eq]

/-- Inversion of a step: where it answers a next state, no premise is broken, and that state is this one. -/
theorem step_inv {s s' : State} (h : step s = .next s') :
    s.brokenPremise = none ∧ s' = s.advance { s with regs := s.nextRegs } := by
  cases hp : s.brokenPremise with
  | none => rw [step_eq s hp] at h; exact ⟨rfl, by injection h with h; exact h.symm⟩
  | some r => simp [step, State.clockEdge, hp] at h

/-- What the registers are after an edge: reset, unchanged, a command accepted, or an edge of the exchange in flight. -/
theorem State.nextRegs_cases (s : State) :
    (s.inputs.rst = true ∧ s.nextRegs = Regs.reset) ∨
    (s.inputs.rst = false ∧ s.regs.seq = .idle ∧ s.inputs.cmdValid = false ∧ s.nextRegs = s.regs) ∨
    (s.inputs.rst = false ∧ s.regs.seq = .idle ∧ s.inputs.cmdValid = true ∧
      s.nextRegs = acceptedRegs (decodeWord s.inputs.commandWord) s.regs) ∨
    (s.inputs.rst = false ∧ s.regs.seq ≠ .idle ∧ s.nextRegs = s.regs.exchangeEdge s.inputs) := by
  unfold State.nextRegs
  split
  · exact .inl ⟨‹_›, rfl⟩
  · split
    · split <;> simp_all
    · simp_all

/-- A run of one step more. -/
theorem State.runsTo_succ {s s' t : State} {k : Nat} (h : step s = .next s') (ht : s'.runsTo k t) : s.runsTo (k + 1) t := by
  have h' : Sys2Proof.core.step s = .next s' := h
  simp only [State.runsTo, Host.Core.run, h']
  exact ht

end Sys2Proof.Machine
end

