-- ==== Sys2Proof/Certificates/Slice0/Obligations.lean ====
section
/-! DEFINITION. The statements for the provers. -/

open Sys2Proof Sys2Proof.Machine

/-! ### Encodings -/

/-- 30_encoding R70 to R72: no bit of a command word is dropped, in either direction, nor by the three-byte layout, which is
the model's choice (log 4). -/
def Obligations.CommandWordsDecodeAndEncodeAgree : Prop :=
  (∀ i : Instr, decodeWord (encodeWord i) = i) ∧
  (∀ cw : CommandWord, encodeWord (decodeWord cw) = cw) ∧
  (∀ (i : Instr) (rest : List Byte), decode (encode i ++ rest) = .ok (i, rest))

/-- opcode_table.json: every command word matches exactly one row, and the fields decoded are those of R71. -/
def Obligations.EachCommandWordMatchesOneRow : Prop :=
  ∀ cw : CommandWord,
    (([(0x30000, 0x00000), (0x30000, 0x10000), (0x70000, 0x20000), (0x70000, 0x60000), (0x30000, 0x30000)] :
      List (CommandWord × CommandWord)).filter fun row => rowMatches row.1 row.2 cw).length = 1 ∧
    (decodeWord cw).op = opField cw ∧
    encodeWord (decodeWord cw) = commandWordOf (checkedField cw) (opField cw) (valueField cw)

/-- Words written out from the table and from 95_test_vectors V5 to V7, one or more per row. -/
def Obligations.SampleCommandWordsDecode : Prop :=
  decodeTableWord 24 0x00000 = some (.getfb false 0) ∧ decodeTableWord 24 0x4FFFF = some (.getfb true 0xFFFF) ∧
  decodeTableWord 24 0x10000 = some (.gettg false 0) ∧ decodeTableWord 24 0x20767 = some (.settg 1895) ∧
  decodeTableWord 24 0x60FFF = some (.settgC 4095) ∧ decodeTableWord 24 0x30000 = some (.op3 false 0) ∧
  decodeTableWord 24 0x71234 = some (.op3 true 0x1234)

/-- The model's choice (log 4): three bytes whose top five bits are not 0, or fewer than three bytes, are no command word. -/
def Obligations.NonCommandWordsAreRejected : Prop :=
  (∀ (b0 b1 b2 : Byte) (rest : List Byte), 8 ≤ b2.toNat →
    decode (b0 :: b1 :: b2 :: rest) = .error .bitsAboveCommandWord) ∧
  (∀ bytes : List Byte, bytes.length < 3 → decode bytes = .error .truncated)

/-- 40_frame_codec R90 to R93: the encoder dispatch, with the arithmetic of R92 on unsigned numbers. -/
def Obligations.EncoderFramesEachCommand : Prop :=
  ∀ v : Half,
    encodeFrame 0 v = some ⟨1, 0x00A5⟩ ∧ encodeFrame 1 v = some ⟨1, 0x00A3⟩ ∧
    encodeFrame 2 v = some ⟨2, setByte1 v ++ setByte0 v⟩ ∧ encodeFrame 3 v = none ∧
    (setByte0 v).toNat = 0xC0 ||| (v.toNat &&& 0x1F) ∧ (setByte1 v).toNat = (v.toNat >>> 5) &&& 0x7F

/-- 30_encoding R74: the bit fields of format W2. -/
def Obligations.SetFrameFieldsAreMarkerAndValueBits : Prop :=
  ∀ v : Half,
    setByte0 v = (0b110#3 ++ v.extractLsb' 0 5 : BitVec 8) ∧ setByte1 v = (0b0#1 ++ v.extractLsb' 5 7 : BitVec 8) ∧
    0xC0 ≤ (setByte0 v).toNat ∧ (setByte0 v).toNat ≤ 0xDF ∧ (setByte1 v).toNat ≤ 0x7F

/-- 40_frame_codec R98: masking, injectivity and the image of the Set Target encoder. -/
def Obligations.SetTargetFramesMaskAndAreInjective : Prop :=
  (∀ v w : Half, v.extractLsb' 0 12 = w.extractLsb' 0 12 → encodeSetTarget v = encodeSetTarget w) ∧
  (∀ v w : Half, v.toNat ≤ 4095 → w.toNat ≤ 4095 → encodeSetTarget v = encodeSetTarget w → v = w) ∧
  (∀ b0 b1 : Byte, (∃ v : Half, v.toNat ≤ 4095 ∧ encodeSetTarget v = ⟨2, b1 ++ b0⟩) ↔
    (0xC0 ≤ b0.toNat ∧ b0.toNat ≤ 0xDF ∧ b1.toNat ≤ 0x7F)) ∧
  (∀ v : Half, encodeSetTarget v = encodeSetTarget (BitVec.ofNat 16 (v.toNat % 4096)))

/-- 40_frame_codec R97: the round trip through the bytes of the encoded frame. -/
def Obligations.SetPayloadRoundTrip : Prop :=
  ∀ v : Half,
    decodeSetPayload (firstByte (encodeSetTarget v).data) (secondByte (encodeSetTarget v).data) = v &&& 0x0FFF ∧
    (v.toNat ≤ 4095 → decodeSetPayload (firstByte (encodeSetTarget v).data) (secondByte (encodeSetTarget v).data) = v)

/-- 40_frame_codec R95, R99: the decode is `lo + 256 * hi` over all pairs, within [0, 4095] exactly when `hi` ≤ 15, and a
bijection; on the data lanes it is the number the lanes already hold (20_memory R57). -/
def Obligations.ResponseDecodeIsLoPlus256Hi : Prop :=
  (∀ lo hi : Byte, (decodeResponse lo hi).toNat = lo.toNat + 256 * hi.toNat ∧ decodeResponse lo hi = hi ++ lo) ∧
  (∀ lo hi : Byte, (decodeResponse lo hi).toNat ≤ 4095 ↔ hi.toNat ≤ 15) ∧
  (∀ lo hi lo' hi' : Byte, decodeResponse lo hi = decodeResponse lo' hi' → lo = lo' ∧ hi = hi') ∧
  (∀ d : Half, decodeResponse (firstByte d) (secondByte d) = d)

/-- 40_frame_codec R100 and 30_encoding R78: a frame's first byte names its command and its length. -/
def Obligations.FirstByteNamesTheFrame : Prop :=
  (∀ v : Half, firstByte (encodeSetTarget v).data ≠ 0xA3 ∧ firstByte (encodeSetTarget v).data ≠ 0xA5) ∧
  (∀ f : Frame, f = encodeGetFeedback ∨ f = encodeGetTarget → ¬(0xC0 ≤ (firstByte f.data).toNat ∧ (firstByte f.data).toNat ≤ 0xDF)) ∧
  (∀ (op : BitVec 2) (v : Half) (f : Frame), encodeFrame op v = some f →
    frameLength (firstByte f.data) = some f.len.toNat ∧ (frameBytes f.len f.data).length = f.len.toNat) ∧
  (∀ (op op' : BitVec 2) (v v' : Half) (f f' : Frame), encodeFrame op v = some f → encodeFrame op' v' = some f' →
    firstByte f.data = firstByte f'.data → op = op')

/-- 40_frame_codec R94: the checked form's test, and its bit form. -/
def Obligations.CheckedRangeTestIsTwelveBits : Prop :=
  ∀ v : Half, (inRange v = true ↔ v.toNat ≤ 4095) ∧ (inRange v = true ↔ v.extractLsb' 12 4 = 0)

/-- 30_encoding R78: the length a first byte names, bit 7 of the bytes of a frame, and that in a stream of whole frames each byte
with bit 7 set starts a frame. -/
def Obligations.TopBitStartsAFrame : Prop :=
  (∀ b : Byte, b.extractLsb' 5 3 = 0b110#3 → frameLength b = some 2) ∧
  (frameLength 0xA3 = some 1 ∧ frameLength 0xA5 = some 1) ∧
  (∀ f, LegalFrame f → ∃ b rest, f = b :: rest ∧ frameLength b = some f.length ∧ b.getLsbD 7 = true ∧
    (f.length = 2 ↔ b.extractLsb' 5 3 = 0b110#3) ∧ ∀ x ∈ rest, x.getLsbD 7 = false) ∧
  (∀ (before after : List Byte) (b : Byte), Framed (before ++ b :: after) → b.getLsbD 7 = true →
    Framed before ∧ Framed (b :: after))

/-! ### Acceptance of each command -/

/-- GETFB and GETTG in IDLE (41_exchange R111, R112, R118, R119): the whole next state. -/
def Obligations.GetCommandsAreAcceptedInIdle : Prop :=
  ∀ (s : State) (c : Bool) (v : Half), s.regs.seq = .idle →
    exec (.getfb c v) s = .next { s with regs :=
      { seq := .wrReq, opQ := 0, lenQ := 1, frameQ := 0x00A5, rspStatusQ := s.regs.rspStatusQ,
        rspValueQ := 0, rspExpectedQ := 0, rspActualQ := 0, rspCauseQ := 0 } } ∧
    exec (.gettg c v) s = .next { s with regs :=
      { seq := .wrReq, opQ := 1, lenQ := 1, frameQ := 0x00A3, rspStatusQ := s.regs.rspStatusQ,
        rspValueQ := 0, rspExpectedQ := 0, rspActualQ := 0, rspCauseQ := 0 } }

/-- SETTG for every value, and SETTG.C for a value in range, in IDLE (R111, R112, R120, R121): the whole next state, the frame's
fields written out (30_encoding R74). -/
def Obligations.SetCommandsAreAcceptedInIdle : Prop :=
  ∀ (s : State) (v : Half), s.regs.seq = .idle →
    let accepted : State := { s with regs :=
      { seq := .wrReq, opQ := 2, lenQ := 2,
        frameQ := ((0b0#1 ++ v.extractLsb' 5 7 : BitVec 8) ++ (0b110#3 ++ v.extractLsb' 0 5 : BitVec 8) : BitVec 16),
        rspStatusQ := s.regs.rspStatusQ, rspValueQ := 0, rspExpectedQ := 0, rspActualQ := 0, rspCauseQ := 0 } }
    exec (.settg v) s = .next accepted ∧ (v.toNat ≤ 4095 → exec (.settgC v) s = .next accepted)

/-- 60_exceptions R146: SETTG.C above the range ends at acceptance, with no request and no field. -/
def Obligations.CheckedSetRejectsAboveRange : Prop :=
  ∀ (s : State) (v : Half), s.regs.seq = .idle → 4095 < v.toNat →
    exec (.settgC v) s = .next { s with regs :=
      { seq := .resp, opQ := 2, lenQ := 0, frameQ := 0, rspStatusQ := .valueRejected,
        rspValueQ := 0, rspExpectedQ := 0, rspActualQ := 0, rspCauseQ := 0 } } ∧
    s.requestTransferred = none

/-- 60_exceptions R147: the reserved code ends at acceptance, with no request and no field. -/
def Obligations.ReservedCodeEndsIllegal : Prop :=
  ∀ (s : State) (c : Bool) (v : Half), s.regs.seq = .idle →
    exec (.op3 c v) s = .next { s with regs :=
      { seq := .resp, opQ := 3, lenQ := 0, frameQ := 0, rspStatusQ := .illegalOp,
        rspValueQ := 0, rspExpectedQ := 0, rspActualQ := 0, rspCauseQ := 0 } } ∧
    s.requestTransferred = none

/-- 41_exchange R111: the block's edge in IDLE, from the signals on the command port. -/
def Obligations.IdleAcceptsThePresentedCommand : Prop :=
  ∀ s : State, s.regs.seq = .idle → s.inputs.rst = false →
    let i := s.inputs
    let cleared : Regs := { s.regs with opQ := i.cmdOp, rspValueQ := 0, rspExpectedQ := 0, rspActualQ := 0, rspCauseQ := 0 }
    s.regs.outputs.cmdReady = true ∧
    (i.cmdValid = false → s.blockEdge = .next s) ∧
    (i.cmdValid = true → s.commandTransfers = true) ∧
    (i.cmdValid = true → i.cmdOp = 0 →
      s.blockEdge = .next { s with regs := { cleared with lenQ := 1, frameQ := 0x00A5, seq := .wrReq } }) ∧
    (i.cmdValid = true → i.cmdOp = 1 →
      s.blockEdge = .next { s with regs := { cleared with lenQ := 1, frameQ := 0x00A3, seq := .wrReq } }) ∧
    (i.cmdValid = true → i.cmdOp = 2 → i.cmdChecked = true → 4095 < i.cmdValue.toNat →
      s.blockEdge = .next { s with regs := { cleared with lenQ := 0, frameQ := 0, rspStatusQ := .valueRejected, seq := .resp } }) ∧
    (i.cmdValid = true → i.cmdOp = 2 → (i.cmdChecked = false ∨ i.cmdValue.toNat ≤ 4095) →
      s.blockEdge = .next { s with regs :=
        { cleared with lenQ := 2, frameQ := setByte1 i.cmdValue ++ setByte0 i.cmdValue, seq := .wrReq } }) ∧
    (i.cmdValid = true → i.cmdOp = 3 →
      s.blockEdge = .next { s with regs := { cleared with lenQ := 0, frameQ := 0, rspStatusQ := .illegalOp, seq := .resp } })

/-- 30_encoding R72, R80 and 41_exchange R120, R121: the ignored fields and the dropped bits have no effect, and a checked value
in range is the unchecked one. -/
def Obligations.IgnoredFieldsHaveNoEffect : Prop :=
  ∀ (s : State) (c c' : Bool) (v v' : Half),
    exec (.getfb c v) s = exec (.getfb c' v') s ∧ exec (.gettg c v) s = exec (.gettg c' v') s ∧
    exec (.op3 c v) s = exec (.op3 c' v') s ∧ exec (.settg v) s = exec (.settg (v &&& 0x0FFF)) s ∧
    (v.toNat ≤ 4095 → exec (.settgC v) s = exec (.settg v) s)

/-! ### The exchange in flight, for every command -/

/-- 41_exchange R113: the write request. -/
def Obligations.WriteRequestIsPresentedUntilTaken : Prop :=
  ∀ (i : Instr) (s : State), s.regs.seq = .wrReq →
    s.regs.outputs.wrReqValid = true ∧ s.regs.outputs.wrReqLen = s.regs.lenQ ∧ s.regs.outputs.wrReqData = s.regs.frameQ ∧
    (s.inputs.wrReqReady = true → exec i s = .next { s with regs := { s.regs with seq := .wrWait } } ∧
      (s.inputs.rst = false → s.requestTransferred = some (.write s.regs.lenQ
        (if s.regs.lenQ = 2 then [s.regs.frameQ.extractLsb' 0 8, s.regs.frameQ.extractLsb' 8 8]
         else [s.regs.frameQ.extractLsb' 0 8])))) ∧
    (s.inputs.wrReqReady = false → exec i s = .next s ∧ s.requestTransferred = none)

/-- 41_exchange R114 and R115: waiting for the write completion, and the completion. -/
def Obligations.WriteCompletionEndsOrContinues : Prop :=
  ∀ (i : Instr) (s : State), s.regs.seq = .wrWait →
    let p := s.inputs
    (p.wrDoneValid = false → exec i s = .next s) ∧
    (p.wrDoneValid = true → p.wrDoneErr = true → exec i s = .next { s with regs :=
      { s.regs with rspCauseQ := p.wrDoneCause, rspStatusQ := .writeFailed, seq := .resp } }) ∧
    (p.wrDoneValid = true → p.wrDoneErr = false → p.wrDoneCount ≠ s.regs.lenQ → exec i s = .next { s with regs :=
      { s.regs with rspExpectedQ := s.regs.lenQ, rspActualQ := p.wrDoneCount, rspStatusQ := .writeIncomplete, seq := .resp } } ∧
      (p.rst = false → ∀ t, step s = .next t → p.wrDoneCount.toNat > s.regs.lenQ.toNat → t.faults.countOverRequest = true)) ∧
    (p.wrDoneValid = true → p.wrDoneErr = false → p.wrDoneCount = s.regs.lenQ → s.regs.opQ = 2 →
      exec i s = .next { s with regs := { s.regs with rspStatusQ := .okAck, seq := .resp } }) ∧
    (p.wrDoneValid = true → p.wrDoneErr = false → p.wrDoneCount = s.regs.lenQ → s.regs.opQ ≠ 2 →
      exec i s = .next { s with regs := { s.regs with seq := .rdReq } })

/-- 41_exchange R116: the read request and the wait for its completion; RD_REQ is reached from one place only, and where the
register invariant holds only by a GET whose write completed with `Count(1)` (R126 (d)). -/
def Obligations.ReadIsRequestedOnceAfterFullWrite : Prop :=
  (∀ (i : Instr) (s : State), s.regs.seq = .rdReq →
    s.regs.outputs.rdReqValid = true ∧ s.regs.outputs.rdReqMax = 2 ∧
    (s.inputs.rdReqReady = true → exec i s = .next { s with regs := { s.regs with seq := .rdWait } } ∧
      (s.inputs.rst = false → s.requestTransferred = some (.read 2))) ∧
    (s.inputs.rdReqReady = false → exec i s = .next s)) ∧
  (∀ (i : Instr) (s : State), s.regs.seq = .rdWait →
    (s.inputs.rdDoneValid = false → exec i s = .next s) ∧
    (s.inputs.rdDoneValid = true → exec i s = .next { s with regs := s.regs.readDone s.inputs })) ∧
  (∀ s s' : State, step s = .next s' → s.regs.seq ≠ .rdReq → s'.regs.seq = .rdReq →
    s.regs.seq = .wrWait ∧ s.regs.opQ ≠ 2 ∧ s.inputs.writeCompletion = some (.count s.regs.lenQ) ∧
    (s.regs.Inv → (s.regs.opQ = 0 ∨ s.regs.opQ = 1) ∧ s.inputs.writeCompletion = some (.count 1)))

/-- 41_exchange R117: the read completion. -/
def Obligations.ReadCompletionEndsTheExchange : Prop :=
  ∀ (i : Instr) (s : State), s.regs.seq = .rdWait → s.inputs.rdDoneValid = true →
    let p := s.inputs
    (p.rdDoneErr = true → exec i s = .next { s with regs :=
      { s.regs with rspCauseQ := p.rdDoneCause, rspStatusQ := .readFailed, seq := .resp } }) ∧
    (p.rdDoneErr = false → p.rdDoneCount ≠ 2 → exec i s = .next { s with regs :=
      { s.regs with rspExpectedQ := 2, rspActualQ := p.rdDoneCount, rspStatusQ := .readIncomplete, seq := .resp } } ∧
      (p.rst = false → ∀ t, step s = .next t → p.rdDoneCount = 3 → t.faults.countOverRequest = true)) ∧
    (p.rdDoneErr = false → p.rdDoneCount = 2 → exec i s = .next { s with regs :=
      { s.regs with rspValueQ := decodeResponse (p.rdDoneData.extractLsb' 0 8) (p.rdDoneData.extractLsb' 8 8),
                    rspStatusQ := .okValue, seq := .resp } })

/-- 41_exchange R123: the result is presented, and transfers when the caller is ready. -/
def Obligations.ResultIsPresentedUntilTaken : Prop :=
  ∀ (i : Instr) (s : State), s.regs.seq = .resp →
    let o := s.regs.outputs
    (o.rspValid = true ∧ o.rspOp = s.regs.opQ ∧ o.rspStatus = s.regs.rspStatusQ.code ∧ o.rspValue = s.regs.rspValueQ ∧
      o.rspExpected = s.regs.rspExpectedQ ∧ o.rspActual = s.regs.rspActualQ ∧ o.rspCause = s.regs.rspCauseQ) ∧
    s.commandTransfers = false ∧
    (s.inputs.rspReady = true → (s.inputs.rst = false → s.resultTransfers = true)) ∧
    (s.inputs.rspReady = true → exec i s = .next { s with regs := { s.regs with seq := .idle } }) ∧
    (s.inputs.rspReady = false → exec i s = .next s)

/-- The frame of every command, in every state of the exchange (41_exchange R110: a register a rule does not name keeps its
value): nothing outside the registers moves, the request registers move at acceptance alone, the status only where an exchange
ends, and each result field only at acceptance or with the status that names it. -/
def Obligations.ExecFrame : Prop :=
  ∀ (i : Instr) (s t : State), exec i s = .next t →
    t = { s with regs := t.regs } ∧
    (s.regs.seq ≠ .idle → t.regs.opQ = s.regs.opQ ∧ t.regs.lenQ = s.regs.lenQ ∧ t.regs.frameQ = s.regs.frameQ) ∧
    (t.regs.seq ≠ .resp ∨ s.regs.seq = .resp → t.regs.rspStatusQ = s.regs.rspStatusQ) ∧
    (s.regs.seq ≠ .idle → ¬(s.regs.seq = .rdWait ∧ t.regs.seq = .resp ∧ t.regs.rspStatusQ = .okValue) →
      t.regs.rspValueQ = s.regs.rspValueQ) ∧
    (s.regs.seq ≠ .idle →
      ¬(t.regs.seq = .resp ∧ (t.regs.rspStatusQ = .writeIncomplete ∨ t.regs.rspStatusQ = .readIncomplete)) →
      t.regs.rspExpectedQ = s.regs.rspExpectedQ ∧ t.regs.rspActualQ = s.regs.rspActualQ) ∧
    (s.regs.seq ≠ .idle →
      ¬(t.regs.seq = .resp ∧ (t.regs.rspStatusQ = .writeFailed ∨ t.regs.rspStatusQ = .readFailed)) →
      t.regs.rspCauseQ = s.regs.rspCauseQ)

/-! ### The step -/

/-- A step in IDLE runs the command presented on the port, with the agents' edges around it; so does the step after a word is
placed by `withFetchWord` (log 3). -/
def Obligations.StepRunsThePresentedCommand : Prop :=
  (∀ (s : State) (i : Instr), s.regs.seq = .idle → s.inputs.rst = false → s.inputs.cmdValid = true →
    decodeWord s.inputs.commandWord = i → ∃ t, exec i s = .next t ∧ step s = .next (s.advance t)) ∧
  (∀ (s : State) (i : Instr),
    let placed := s.withFetchWord 24 (encodeWord i).toNat
    ∃ t, exec i placed = .next t ∧ step placed = .next (placed.advance t))

/-- A step in any other state runs the exchange in flight, whatever command stands on the port (60_exceptions R151); in IDLE
with no command nothing but the agents moves. -/
def Obligations.StepRunsTheExchangeInFlight : Prop :=
  (∀ (s : State) (i : Instr), s.regs.seq ≠ .idle → s.brokenPremise = none → s.inputs.rst = false →
    ∃ t, exec i s = .next t ∧ step s = .next (s.advance t)) ∧
  (∀ s : State, s.regs.seq = .idle → s.inputs.rst = false → s.inputs.cmdValid = false → step s = .next (s.advance s))

/-- A step answers a next state exactly where no launch premise is broken, and a refusal names the premise (70_reset R175, R180;
93 U14, U18: the model's reading of 'refuse', log 12). -/
def Obligations.StepRefusesOnlyABrokenPremise : Prop :=
  ∀ s : State,
    ((∃ t, step s = .next t) ↔ (s.regs.seq = .idle ∨ (s.inputs.otherAgent = false ∧ s.inputs.channelClosed = false))) ∧
    (s.regs.seq ≠ .idle → s.inputs.otherAgent = true → step s = .refused .channelShared) ∧
    (s.regs.seq ≠ .idle → s.inputs.otherAgent = false → s.inputs.channelClosed = true →
      step s = .refused .channelClosedInFlight)

/-- 70_reset R170: the reset step, from any state. -/
def Obligations.ResetStepWritesEveryRegister : Prop :=
  ∀ s : State, s.brokenPremise = none → s.inputs.rst = true →
    ∃ t, step s = .next t ∧
      t.regs = { seq := .idle, opQ := 0, lenQ := 0, frameQ := 0, rspStatusQ := .okValue,
                 rspValueQ := 0, rspExpectedQ := 0, rspActualQ := 0, rspCauseQ := 0 } ∧
      s.commandTransfers = false ∧ s.resultTransfers = false ∧ s.writeRequestTransfers = false ∧ s.readRequestTransfers = false ∧
      s.consumesWrite = false ∧ s.consumesRead = false

/-- 70_reset R173: the outputs after reset, and the first transfer. -/
def Obligations.OutputsAfterReset : Prop :=
  State.reset.regs.outputs =
    { cmdReady := true, rspValid := false, rspOp := 0, rspStatus := 0, rspValue := 0, rspExpected := 0, rspActual := 0,
      rspCause := 0, wrReqValid := false, wrReqLen := 0, wrReqData := 0, rdReqValid := false, rdReqMax := 2 } ∧
  (∀ s : State, s.regs = State.reset.regs →
    (s.commandTransfers = true ↔ s.inputs.rst = false ∧ s.inputs.cmdValid = true))

/-- 70_reset R171: a reset abandons the exchange without a result and cancels nothing at the channel. That the
wire log stays as it was, though a request may be under way, is the model's choice: a write's bytes enter the log at its completion
(log 10); the trace is the model's own record (log 13). -/
def Obligations.ResetCancelsNoChannelRequest : Prop :=
  ∀ s t : State, step s = .next t → s.inputs.rst = true →
    t.trace = s.trace ++ [.reset] ∧
    (s.inputs.wrDoneValid = false → s.inputs.rdDoneValid = false →
      t.channel.outstanding = s.channel.outstanding ∧ t.channel.wire = s.channel.wire)

/-- 41_exchange R124: a completion in a state that does not sample it changes no register, and is recorded, at reset edges too
(log 8). -/
def Obligations.StrayCompletionsAreIgnoredAndRecorded : Prop :=
  ∀ (s : State) (i : Inputs) (rest : List Inputs) (valid err : Bool) (count : BitVec 2) (data : Half) (cause : Cause),
    i.otherAgent = false → i.channelClosed = false →
    (s.regs.seq ≠ .wrWait →
      ∃ t t', step { s with env := i :: rest } = .next t ∧
        step { s with env :=
          { i with wrDoneValid := valid, wrDoneErr := err, wrDoneCount := count, wrDoneCause := cause } :: rest } = .next t' ∧
        t'.regs = t.regs ∧ (valid = true → t'.faults.strayCompletion = true)) ∧
    (s.regs.seq ≠ .rdWait →
      ∃ t t', step { s with env := i :: rest } = .next t ∧
        step { s with env :=
          { i with rdDoneValid := valid, rdDoneErr := err, rdDoneCount := count, rdDoneData := data, rdDoneCause := cause } :: rest }
            = .next t' ∧
        t'.regs = t.regs ∧ (valid = true → t'.faults.strayCompletion = true))

/-- 60_exceptions R150: within one completion the hard error wins, and the count and the data are ignored. -/
def Obligations.HardErrorBeatsCount : Prop :=
  ∀ (i : Instr) (s t : State), exec i s = .next t →
    (s.regs.seq = .wrWait → s.inputs.wrDoneValid = true → s.inputs.wrDoneErr = true →
      t.regs.result = .writeFailed s.inputs.wrDoneCause ∧ t.regs.rspActualQ = s.regs.rspActualQ) ∧
    (s.regs.seq = .rdWait → s.inputs.rdDoneValid = true → s.inputs.rdDoneErr = true →
      t.regs.result = .readFailed s.inputs.rdDoneCause ∧ t.regs.rspActualQ = s.regs.rspActualQ ∧
      t.regs.rspValueQ = s.regs.rspValueQ)

/-- 60_exceptions R151: at most one port event takes effect in a step, and none transfers at a reset. -/
def Obligations.AtMostOneTransferPerEdge : Prop :=
  ∀ s : State,
    let events := [s.commandTransfers, s.writeRequestTransfers, s.consumesWrite, s.readRequestTransfers, s.consumesRead, s.resultTransfers]
    events.count true ≤ 1 ∧ (s.inputs.rst = true → events.count true = 0) ∧
    (s.commandTransfers = true → s.regs.seq = .idle)

/-- 10_state R25, R26, R28: when a result or a request transfers, and that what is presented holds until then. -/
def Obligations.PresentedOutputsHold : Prop :=
  (∀ s : State,
    (s.resultTransfers = true ↔ s.inputs.rst = false ∧ s.regs.outputs.rspValid = true ∧ s.inputs.rspReady = true) ∧
    (s.writeRequestTransfers = true ↔ s.inputs.rst = false ∧ s.regs.outputs.wrReqValid = true ∧ s.inputs.wrReqReady = true) ∧
    (s.readRequestTransfers = true ↔ s.inputs.rst = false ∧ s.regs.outputs.rdReqValid = true ∧ s.inputs.rdReqReady = true)) ∧
  ∀ s t : State, step s = .next t → s.inputs.rst = false →
    (s.regs.outputs.rspValid = true → s.inputs.rspReady = false → t.regs.outputs = s.regs.outputs) ∧
    (s.regs.outputs.wrReqValid = true → s.inputs.wrReqReady = false → t.regs.outputs = s.regs.outputs) ∧
    (s.regs.outputs.rdReqValid = true → s.inputs.rdReqReady = false → t.regs.outputs = s.regs.outputs)

/-- 10_state R33: the output functions, with the codes of R30. -/
def Obligations.OutputsAreFunctionsOfTheRegisters : Prop :=
  ∀ r : Regs,
    (r.outputs.cmdReady = true ↔ r.seq.code = 0) ∧ (r.outputs.rspValid = true ↔ r.seq.code = 5) ∧
    (r.outputs.wrReqValid = true ↔ r.seq.code = 1) ∧ (r.outputs.rdReqValid = true ↔ r.seq.code = 3) ∧
    r.outputs.rspOp = r.opQ ∧ r.outputs.rspStatus = r.rspStatusQ.code ∧ r.outputs.rspValue = r.rspValueQ ∧
    r.outputs.rspExpected = r.rspExpectedQ ∧ r.outputs.rspActual = r.rspActualQ ∧ r.outputs.rspCause = r.rspCauseQ ∧
    r.outputs.wrReqLen = r.lenQ ∧ r.outputs.wrReqData = r.frameQ ∧ r.outputs.rdReqMax = 2

/-- 10_state R30 and 60_exceptions R141: the numeric codes of states and statuses. -/
def Obligations.StateAndStatusCodes : Prop :=
  [Seq.idle, .wrReq, .wrWait, .rdReq, .rdWait, .resp].map Seq.code = [0, 1, 2, 3, 4, 5] ∧
  [Status.okValue, .okAck, .writeIncomplete, .writeFailed, .readIncomplete, .readFailed, .valueRejected, .illegalOp].map Status.code
    = [0, 1, 2, 3, 4, 5, 6, 7] ∧
  (∀ c : BitVec 3, ∃ st : Status, st.code = c)

/-! ### The caller's and the channel's obligations -/

/-- 10_state R23: when a command transfers, that the command signals matter at no other edge, and the hold rule. -/
def Obligations.CommandTransferAndHoldRule : Prop :=
  (∀ s : State, s.commandTransfers = true ↔
    s.inputs.rst = false ∧ s.inputs.cmdValid = true ∧ s.regs.outputs.cmdReady = true) ∧
  (∀ (s : State) (i : Inputs) (rest : List Inputs) (valid checked : Bool) (op : BitVec 2) (value : Half) (t t' : State),
    let quiet : State := { s with env := i :: rest }
    let changed : State :=
      { s with env := { i with cmdValid := valid, cmdOp := op, cmdChecked := checked, cmdValue := value } :: rest }
    quiet.commandTransfers = false → changed.commandTransfers = false →
    step quiet = .next t → step changed = .next t' → t'.regs = t.regs) ∧
  (∀ s s' s'' : State, step s = .next s' → step s' = .next s'' → s.inputs.cmdValid = true → s.commandTransfers = false →
    (s'.inputs.cmdValid = false ∨ s'.inputs.cmdOp ≠ s.inputs.cmdOp ∨ s'.inputs.cmdChecked ≠ s.inputs.cmdChecked ∨
      s'.inputs.cmdValue ≠ s.inputs.cmdValue) →
    s''.faults.callerWithdrewCommand = true)

/-- 20_memory R54: a count above the outstanding request is recorded at every edge, reset edges and edges that ignore the
completion included; where the block consumes it, it is reported as Incomplete with that count. -/
def Obligations.CountAboveRequestIsReportedAndRecorded : Prop :=
  (∀ s t : State, step s = .next t →
    (s.inputs.wrDoneValid = true → s.inputs.wrDoneErr = false → (∃ len bytes, .write len bytes ∈ s.channel.outstanding) →
      (∀ len bytes, .write len bytes ∈ s.channel.outstanding → len.toNat < s.inputs.wrDoneCount.toNat) →
      t.faults.countOverRequest = true) ∧
    (s.inputs.rdDoneValid = true → s.inputs.rdDoneErr = false → (∃ max, .read max ∈ s.channel.outstanding) →
      (∀ max, .read max ∈ s.channel.outstanding → max.toNat < s.inputs.rdDoneCount.toNat) →
      t.faults.countOverRequest = true)) ∧
  ∀ s t : State, step s = .next t → s.inputs.rst = false →
    (s.regs.seq = .wrWait → s.inputs.wrDoneValid = true → s.inputs.wrDoneErr = false →
      s.regs.lenQ.toNat < s.inputs.wrDoneCount.toNat →
      t.regs.result = .writeIncomplete s.regs.lenQ s.inputs.wrDoneCount ∧ t.faults.countOverRequest = true) ∧
    (s.regs.seq = .rdWait → s.inputs.rdDoneValid = true → s.inputs.rdDoneErr = false → s.inputs.rdDoneCount = 3 →
      t.regs.result = .readIncomplete 2 3 ∧ t.faults.countOverRequest = true)

/-- The model's reading of 20_memory R54 (log 18): while the block waits, with the channel in step, a count is recorded exactly where
the awaited completion's is above the request, at reset edges too; a stray completion of the other kind, which is of no request,
records none. -/
def Obligations.InStepOnlyTheAwaitedCountIsRecorded : Prop :=
  ∀ s t : State, step s = .next t → s.ChannelInStep →
    (s.regs.seq = .wrWait → (t.faults.countOverRequest = true ↔ s.faults.countOverRequest = true ∨
      (s.inputs.wrDoneValid = true ∧ s.inputs.wrDoneErr = false ∧ s.inputs.wrDoneCount.toNat > s.regs.lenQ.toNat))) ∧
    (s.regs.seq = .rdWait → (t.faults.countOverRequest = true ↔ s.faults.countOverRequest = true ∨
      (s.inputs.rdDoneValid = true ∧ s.inputs.rdDoneErr = false ∧ s.inputs.rdDoneCount = 3)))

/-- 20_memory R53: a completion for which no request is outstanding is recorded, in every state (log 8). -/
def Obligations.UnrequestedCompletionIsRecorded : Prop :=
  ∀ s t : State, step s = .next t →
    (s.inputs.wrDoneValid = true → (∀ len bytes, ChannelRequest.write len bytes ∉ s.channel.outstanding) →
      t.faults.strayCompletion = true) ∧
    (s.inputs.rdDoneValid = true → (∀ m, ChannelRequest.read m ∉ s.channel.outstanding) → t.faults.strayCompletion = true)

/-- 10_state R39, 20_memory R55: each request waits from the edge after its transfer, one edge at a time, and one that waits longer
than its bound is recorded; the bound counted in edges and the fault bit are the model's reading (log 17, log 23), and that a request waits on
after a completion at its transfer edge is the model's choice (log 24). -/
def Obligations.OverdueRequestIsRecorded : Prop :=
  ∀ s t : State, step s = .next t →
    (∀ p ∈ t.channel.pending, (∃ q ∈ s.channel.pending, p = ⟨q.request, q.waited + 1⟩) ∨
      (s.requestTransferred = some p.request ∧ p.waited = 0)) ∧
    ((∃ len bytes n, ⟨.write len bytes, n⟩ ∈ s.channel.pending ∧ Config.chWriteTimeout < n) →
      t.faults.completionOverdue = true) ∧
    ((∃ max n, ⟨.read max, n⟩ ∈ s.channel.pending ∧ Config.chReadTimeout < n) → t.faults.completionOverdue = true) ∧
    (t.faults.completionOverdue = true → s.faults.completionOverdue = true ∨
      ∃ p ∈ s.channel.pending, p.request.timeout < p.waited)

/-- 00_scope R11: no step clears a recorded violation, the reset step included (log 7); and an edge that breaks no contract records
none. -/
def Obligations.FaultBitsAreKept : Prop :=
  ∀ s t : State, step s = .next t →
    (∀ f : Fault, s.faults.has f = true → t.faults.has f = true) ∧ (s.conforming → t.faults = s.faults)

/-- 20_memory R51, R60: the bytes a write completion says were written are the first ones of the request, in order; after a hard
error some number of them (log 10, log 19). -/
def Obligations.WrittenBytesAreTheFirstOfTheFrame : Prop :=
  ∀ s t : State, step s = .next t → s.ChannelInStep → s.consumesWrite = true →
    let frame := frameBytes s.regs.lenQ s.regs.frameQ
    (s.inputs.wrDoneErr = false → t.channel.wire = s.channel.wire ++ frame.take s.inputs.wrDoneCount.toNat) ∧
    (s.inputs.wrDoneErr = true → ∃ n, t.channel.wire = s.channel.wire ++ frame.take n)

/-! ### Invariants -/

/-- Every step keeps the register invariant: the fields a status does not name are 0 and clear while an exchange runs (R112), a
request is a frame of its command (R126 (d)), a presented status belongs to its command (60_exceptions R141). -/
def Obligations.RegisterInvariantIsKept : Prop :=
  ∀ s t : State, step s = .next t → s.regs.Inv → t.regs.Inv

/-- The invariants hold at reset. That the channel, the wire and the trace are empty there is the model's choice (log 15). -/
def Obligations.ResetHasTheInvariants : Prop :=
  State.reset.regs.Inv ∧ State.reset.Refines ∧ State.reset.ChannelInStep ∧ State.reset.AwaitedOutstanding ∧ State.reset.WireOk

/-- 60_exceptions R148: under every status but OK_VALUE the presented value is 0, and the typed result has none. -/
def Obligations.NoValueOnFailure : Prop :=
  ∀ r : Regs, r.Inv → r.outputs.rspValid = true → r.rspStatusQ ≠ .okValue →
    r.outputs.rspValue = 0 ∧ ∀ v, r.result ≠ .okValue v

/-- 41_exchange R127 with R126 (c), (d), (e): every step of the clock level is allowed by the exchange level: the port events
follow its order, the requests are its requests, and the result that transfers is the one the command's rule gives for the
completions received. The trace is the model's own record (log 13). -/
def Obligations.ClockLevelRefinesExchangeLevel : Prop :=
  ∀ s t : State, step s = .next t → s.Refines → t.Refines

/-- 41_exchange R126 (b): in a run without a reset in flight, at most one request is outstanding, and one is exactly in WR_WAIT
and RD_WAIT. R126 speaks of a conforming channel; that stray completions do not break it, an early one at the request's own transfer
edge included, goes beyond it and is the model's choice: the early one leaves the request outstanding (log 24). -/
def Obligations.ChannelStaysInStep : Prop :=
  ∀ s t : State, step s = .next t → (s.inputs.rst = true → s.regs.seq ≠ .wrWait ∧ s.regs.seq ≠ .rdWait) →
    s.ChannelInStep → t.ChannelInStep

/-- 70_reset R171, R187: with resets in flight too, the request the block waits for is outstanding, the newest one. That
an older request stays outstanding and completes first (log 9), and that a completion at a request's own transfer edge leaves it
outstanding (log 24), are the model's choices. -/
def Obligations.AwaitedRequestIsOutstanding : Prop :=
  ∀ s t : State, step s = .next t → s.AwaitedOutstanding → t.AwaitedOutstanding

/-- 30_encoding R77: every step keeps every request a legal frame and every byte on the wire one of the bytes the block sends. Which
bytes of a request the wire log holds, and when, is the model's choice (log 10, log 19). -/
def Obligations.OnlyLegalBytesReachTheWire : Prop :=
  ∀ s t : State, step s = .next t → s.WireOk → t.WireOk

/-- 30_encoding R78: while every write completes in full the wire log is a stream of whole frames. That it is so after every edge,
WR_WAIT included, rests on the model's choice that a write's bytes enter the log at its completion (log 10). -/
def Obligations.FullWritesKeepTheWireFramed : Prop :=
  ∀ s t : State, step s = .next t → s.WireOk → s.ChannelInStep → Framed s.channel.wire →
    (s.inputs.writeCompletion = none ∨ (s.consumesWrite = true ∧ s.inputs.writeCompletion = some (.count s.regs.lenQ))) →
    Framed t.channel.wire

/-! ### Whole exchanges -/

/-- 41_exchange R127, R118 to R122, with the liveness of 70_reset R183: from any IDLE state, for every command, every wait and
every pair of completions, a served exchange ends in IDLE with exactly the events of the command's rule. -/
def Obligations.ServedExchangeMatchesCommandRule : Prop :=
  ∀ (s : State) (v : Service) (w : WriteCompletion) (r : ReadCompletion) (rest : List Inputs),
    s.regs.seq = .idle → v.Ok → v.writeDone.writeCompletion = some w → v.readDone.readCompletion = some r →
    let samples := v.samples (exchange (decodeWord v.command.commandWord) w r).requests
    s.env = samples ++ rest →
    ∃ t, s.runsTo samples.length t ∧ t.regs.seq = .idle ∧ t.env = rest ∧
      t.trace = s.trace ++ exchangeEvents v.command.commandWord w r

/-- 70_reset R190: with everything answered at once an exchange takes two edges and two more for each of its requests, counting
the command's transfer edge as the first. -/
def Obligations.ImmediateExchangeCycleCounts : Prop :=
  ∀ (s : State) (v : Service) (w : WriteCompletion) (r : ReadCompletion) (rest : List Inputs),
    s.regs.seq = .idle → v.Ok → v.immediate → v.writeDone.writeCompletion = some w → v.readDone.readCompletion = some r →
    let requests := (exchange (decodeWord v.command.commandWord) w r).requests
    s.env = v.samples requests ++ rest →
    (∃ t, s.runsTo (2 + 2 * requests.length) t ∧ t.regs.seq = .idle) ∧
    ∀ k t, 0 < k → k < 2 + 2 * requests.length → s.runsTo k t → t.regs.seq ≠ .idle

/-- 10_state R37: no state crosses exchanges. From two IDLE states that differ in anything, the same command and the same
inputs give the same registers (but for a status that is not presented) and the same port events. -/
def Obligations.NoStateCrossesExchanges : Prop :=
  ∀ (n : Nat) (s t s' : State), s.regs.seq = .idle → t.regs.seq = .idle → s.env = t.env → n < s.env.length →
    s.commandTransfers = true → s.runsTo (n + 1) s' →
    ∃ t', t.runsTo (n + 1) t' ∧ s'.regs.SameExchange t'.regs ∧
      ∃ events, s'.trace = s.trace ++ events ∧ t'.trace = t.trace ++ events

/-- 70_reset R183 and 60_exceptions R164: without the answer it waits for, the block stays where it is and changes no register. -/
def Obligations.BlockWaitsUntilAnswered : Prop :=
  ∀ (n : Nat) (s : State), n ≤ s.env.length →
    (∀ i ∈ s.env.take n, i.undisturbed ∧ i.answers s.regs.seq = false) →
    ∃ t, s.runsTo n t ∧ t.regs = s.regs ∧ t.trace = s.trace

/-- 20_memory R55: where the channel keeps its bounds, counted in edges (the model's reading, log 17), the block leaves WR_WAIT
and RD_WAIT within them. -/
def Obligations.ChannelBoundsEndTheWaits : Prop :=
  (∀ s : State, s.regs.seq = .wrWait → Config.chWriteTimeout < s.env.length →
    (∀ i ∈ s.env.take (Config.chWriteTimeout + 1), i.undisturbed) →
    (∃ i ∈ s.env.take (Config.chWriteTimeout + 1), i.wrDoneValid = true) →
    ∃ k t, k ≤ Config.chWriteTimeout + 1 ∧ s.runsTo k t ∧ (t.regs.seq = .resp ∨ t.regs.seq = .rdReq)) ∧
  (∀ s : State, s.regs.seq = .rdWait → Config.chReadTimeout < s.env.length →
    (∀ i ∈ s.env.take (Config.chReadTimeout + 1), i.undisturbed) →
    (∃ i ∈ s.env.take (Config.chReadTimeout + 1), i.rdDoneValid = true) →
    ∃ k t, k ≤ Config.chReadTimeout + 1 ∧ s.runsTo k t ∧ t.regs.seq = .resp)

/-- 10_state R39, 20_memory R55: a request never answered is recorded once its bound has passed and not before, while the block
waits on (93 U12); the bound counted in edges and the fault bit are the model's reading (log 17, log 23). -/
def Obligations.UnansweredRequestIsRecordedAfterItsBound : Prop :=
  (∀ s : State, s.regs.seq = .wrWait → s.channel.pending = [⟨s.regs.outputs.writeRequest, 0⟩] →
    Config.chWriteTimeout + 1 < s.env.length →
    (∀ i ∈ s.env.take (Config.chWriteTimeout + 2), i.undisturbed ∧ i.wrDoneValid = false) →
    (∃ t, s.runsTo (Config.chWriteTimeout + 2) t ∧ t.regs = s.regs ∧ t.faults.completionOverdue = true) ∧
    ∀ k t, k ≤ Config.chWriteTimeout + 1 → s.runsTo k t → t.faults.completionOverdue = s.faults.completionOverdue) ∧
  (∀ s : State, s.regs.seq = .rdWait → s.channel.pending = [⟨.read 2, 0⟩] →
    Config.chReadTimeout + 1 < s.env.length →
    (∀ i ∈ s.env.take (Config.chReadTimeout + 2), i.undisturbed ∧ i.rdDoneValid = false) →
    (∃ t, s.runsTo (Config.chReadTimeout + 2) t ∧ t.regs = s.regs ∧ t.faults.completionOverdue = true) ∧
    ∀ k t, k ≤ Config.chReadTimeout + 1 → s.runsTo k t → t.faults.completionOverdue = s.faults.completionOverdue)

/-- 70_reset R184: a completion at the edge its request transfers is ignored and recorded, and the block then waits. -/
def Obligations.EarlyCompletionIsIgnored : Prop :=
  ∀ s t : State, step s = .next t → s.inputs.rst = false →
    (s.writeRequestTransfers = true → s.inputs.wrDoneValid = true →
      t.regs = { s.regs with seq := .wrWait } ∧ t.faults.strayCompletion = true) ∧
    (s.readRequestTransfers = true → s.inputs.rdDoneValid = true →
      t.regs = { s.regs with seq := .rdWait } ∧ t.faults.strayCompletion = true)

/-- 70_reset R185: a write completion held for five edges ends the next SET exchange too, SETTG or SETTG.C in range, with what the
channel gave the first. -/
def Obligations.HeldCompletionEndsTheNextSet : Prop :=
  ∀ (s : State) (e2 e3 e4 e5 e6 : Inputs) (rest : List Inputs) (w : WriteCompletion) (i : Instr) (f : Frame),
    s.regs.seq = .wrWait → s.regs.opQ = 2 → s.env = e2 :: e3 :: e4 :: e5 :: e6 :: rest →
    (∀ e ∈ [e2, e3, e4, e5, e6], e.undisturbed ∧ e.writeCompletion = some w) →
    e3.rspReady = true → e4.cmdValid = true → decodeWord e4.commandWord = i → i.op = 2 → frameOf i = some f →
    e5.wrReqReady = true →
    ∃ t, s.runsTo 5 t ∧ t.regs.seq = .resp ∧ t.regs.lenQ = f.len ∧ t.regs.frameQ = f.data ∧
      t.regs.result = (exchange i w .noByte).result ∧ t.faults.strayCompletion = true

/-- 70_reset R187: after a reset in flight the abandoned request's completion is taken as the next request's of its kind: a write's
by the next command that writes, GET or SET, and a read's by the next GET. That no stray completion is recorded and the newer
request is still outstanding rests on the model's choice of oldest-first completion (log 9). -/
def Obligations.AbandonedCompletionIsTakenByTheNextExchange : Prop :=
  (∀ (s : State) (e0 e1 e2 e3 : Inputs) (rest : List Inputs) (w : WriteCompletion) (i : Instr) (f : Frame) (len : BitVec 2)
      (bytes : List Byte),
    s.regs.seq = .wrWait → s.channel.outstanding = [.write len bytes] → s.env = e0 :: e1 :: e2 :: e3 :: rest →
    e0.rst = true → e0.otherAgent = false → e0.channelClosed = false → (∀ e ∈ [e1, e2, e3], e.undisturbed) →
    (∀ e ∈ [e0, e1, e2], e.wrDoneValid = false) → (∀ e ∈ [e0, e1, e2, e3], e.rdDoneValid = false) →
    e1.cmdValid = true → decodeWord e1.commandWord = i → frameOf i = some f → e2.wrReqReady = true →
    e3.writeCompletion = some w →
    ∃ t, s.runsTo 4 t ∧
      (if (exchange i w .noByte).requests.length = 2 then t.regs.seq = .rdReq
       else t.regs.seq = .resp ∧ t.regs.result = (exchange i w .noByte).result) ∧
      t.channel.outstanding = [.write f.len (frameBytes f.len f.data)] ∧ t.faults.strayCompletion = s.faults.strayCompletion) ∧
  (∀ (s : State) (e0 e1 e2 e3 e4 e5 : Inputs) (rest : List Inputs) (r : ReadCompletion) (i : Instr),
    s.regs.seq = .rdWait → s.channel.outstanding = [.read 2] → s.env = e0 :: e1 :: e2 :: e3 :: e4 :: e5 :: rest →
    e0.rst = true → e0.otherAgent = false → e0.channelClosed = false → (∀ e ∈ [e1, e2, e3, e4, e5], e.undisturbed) →
    (∀ e ∈ [e0, e1, e2, e4, e5], e.wrDoneValid = false) → (∀ e ∈ [e0, e1, e2, e3, e4], e.rdDoneValid = false) →
    e1.cmdValid = true → decodeWord e1.commandWord = i → i.op = 0 ∨ i.op = 1 → e2.wrReqReady = true →
    e3.writeCompletion = some (.count 1) → e4.rdReqReady = true → e5.readCompletion = some r →
    ∃ t, s.runsTo 6 t ∧ t.regs.seq = .resp ∧ t.regs.result = (exchange i (.count 1) r).result ∧
      t.channel.outstanding = [.read 2] ∧ t.faults.strayCompletion = s.faults.strayCompletion)
end

