-- ==== Sys2Proof/Laws/PerInstr.lean ====
section
/-! SUPPORT. The per-instruction family EncodingRow: every command's word lies in its row of spec/opcode_table.json. -/

namespace Sys2Proof.Laws.EncodingRow

/-- The command's word has its row's match bits under its row's mask. -/
def Statement (i : Instr) : Prop :=
  match i with
  | .getfb _ _ => rowMatches 0x30000 0x00000 (encodeWord i) = true
  | .gettg _ _ => rowMatches 0x30000 0x10000 (encodeWord i) = true
  | .settg _ => rowMatches 0x70000 0x20000 (encodeWord i) = true
  | .settgC _ => rowMatches 0x70000 0x60000 (encodeWord i) = true
  | .op3 _ _ => rowMatches 0x30000 0x30000 (encodeWord i) = true

/-- Masking a command word's upper three bits leaves them and clears the value. -/
theorem upper_of_word (c : Bool) (op : BitVec 2) (v : Half) (m : BitVec 3) :
    commandWordOf c op v &&& (m ++ 0#16 : BitVec 19) = ((BitVec.ofBool c ++ op) &&& m : BitVec 3) ++ 0#16 := by
  have : commandWordOf c op v = ((BitVec.ofBool c ++ op : BitVec 3) ++ v : BitVec 19) := rfl
  rw [this, BitVec.and_append, BitVec.and_zero]

theorem getfb (c : Bool) (v : Half) : Statement (.getfb c v) := by
  have := upper_of_word c 0 v 3
  cases c <;> simpa [Statement, rowMatches, encodeWord] using this

theorem gettg (c : Bool) (v : Half) : Statement (.gettg c v) := by
  have := upper_of_word c 1 v 3
  cases c <;> simpa [Statement, rowMatches, encodeWord] using this

theorem settg (v : Half) : Statement (.settg v) := by
  simpa [Statement, rowMatches, encodeWord] using upper_of_word false 2 v 7

theorem settgC (v : Half) : Statement (.settgC v) := by
  simpa [Statement, rowMatches, encodeWord] using upper_of_word true 2 v 7

theorem op3 (c : Bool) (v : Half) : Statement (.op3 c v) := by
  have := upper_of_word c 3 v 3
  cases c <;> simpa [Statement, rowMatches, encodeWord] using this

end Sys2Proof.Laws.EncodingRow
end

