-- ==== Sys2Proof/Laws/Codec.lean ====
section
/-! SUPPORT. The codec and the command word as arithmetic on unsigned numbers: one lemma per function, which later proofs cite
instead of the bit operations. -/

namespace Sys2Proof

/-- Joining two fields is adding the upper one shifted up. -/
theorem toNat_join {n m : Nat} (x : BitVec n) (y : BitVec m) : (x ++ y).toNat = x.toNat * 2 ^ m + y.toNat := by
  rw [BitVec.toNat_append, ← Nat.shiftLeft_add_eq_or_of_lt y.isLt, Nat.shiftLeft_eq]

theorem commandWordOf_toNat (c : Bool) (op : BitVec 2) (v : Half) :
    (commandWordOf c op v).toNat = c.toNat * 262144 + op.toNat * 65536 + v.toNat := by
  have h : (commandWordOf c op v).toNat = (BitVec.ofBool c ++ op).toNat * 2 ^ 16 + v.toNat :=
    toNat_join (BitVec.ofBool c ++ op) v
  have h' : (BitVec.ofBool c ++ op).toNat = (BitVec.ofBool c).toNat * 2 ^ 2 + op.toNat := toNat_join _ _
  rw [h, h', BitVec.toNat_ofBool]
  simp only [Nat.reducePow]
  omega

theorem valueField_toNat (cw : CommandWord) : (valueField cw).toNat = cw.toNat % 65536 := by
  simp [valueField]

theorem opField_toNat (cw : CommandWord) : (opField cw).toNat = cw.toNat / 65536 % 4 := by
  simp [opField, Nat.shiftRight_eq_div_pow]

theorem checkedField_toNat (cw : CommandWord) : (checkedField cw).toNat = cw.toNat / 262144 := by
  have h := cw.isLt
  have hb : checkedField cw = cw.toNat.testBit 18 := rfl
  rw [hb, Nat.toNat_testBit]
  omega

@[simp] theorem valueField_commandWordOf (c : Bool) (op : BitVec 2) (v : Half) : valueField (commandWordOf c op v) = v := by
  apply BitVec.eq_of_toNat_eq
  rw [valueField_toNat, commandWordOf_toNat]
  have := v.isLt
  omega

@[simp] theorem opField_commandWordOf (c : Bool) (op : BitVec 2) (v : Half) : opField (commandWordOf c op v) = op := by
  apply BitVec.eq_of_toNat_eq
  rw [opField_toNat, commandWordOf_toNat]
  have := v.isLt
  have := op.isLt
  omega

@[simp] theorem checkedField_commandWordOf (c : Bool) (op : BitVec 2) (v : Half) : checkedField (commandWordOf c op v) = c := by
  have h := checkedField_toNat (commandWordOf c op v)
  rw [commandWordOf_toNat] at h
  have := v.isLt
  have := op.isLt
  cases c <;> cases hc : checkedField (commandWordOf _ op v) <;> simp_all <;> omega

/-- The fields of a command word make it up again (30_encoding R71). -/
@[simp] theorem commandWordOf_fields (cw : CommandWord) :
    commandWordOf (checkedField cw) (opField cw) (valueField cw) = cw := by
  apply BitVec.eq_of_toNat_eq
  rw [commandWordOf_toNat, checkedField_toNat, opField_toNat, valueField_toNat]
  have := cw.isLt
  omega

/-- The four command codes. -/
theorem op_cases (op : BitVec 2) : op = 0 ∨ op = 1 ∨ op = 2 ∨ op = 3 := by
  revert op; decide

/-- The decoder, field by field (30_encoding R70, R72). -/
theorem decodeWord_commandWordOf (c : Bool) (op : BitVec 2) (v : Half) :
    decodeWord (commandWordOf c op v) =
      if op = 0 then .getfb c v else if op = 1 then .gettg c v
      else if op = 2 then (if c then .settgC v else .settg v) else .op3 c v := by
  have h3 := Laws.EncodingRow.upper_of_word c op v 3
  have h7 := Laws.EncodingRow.upper_of_word c op v 7
  simp only [decodeWord, rowMatches, valueField_commandWordOf, checkedField_commandWordOf]
  rw [show (0x30000 : CommandWord) = ((3 : BitVec 3) ++ 0#16 : BitVec 19) by decide,
    show (0x70000 : CommandWord) = ((7 : BitVec 3) ++ 0#16 : BitVec 19) by decide, h3, h7]
  rcases op_cases op with rfl | rfl | rfl | rfl <;> cases c <;> rfl

/-- The command word on the port of a sample that presents one. -/
@[simp] theorem Inputs.presenting_commandWord (cw : CommandWord) : (Inputs.presenting cw).commandWord = cw := by
  simp [Inputs.presenting, Inputs.commandWord]

end Sys2Proof

namespace Sys2Proof.Machine

theorem firstByte_toNat (d : Half) : (firstByte d).toNat = d.toNat % 256 := by
  simp [firstByte]

theorem secondByte_toNat (d : Half) : (secondByte d).toNat = d.toNat / 256 := by
  have := d.isLt
  simp [secondByte, Nat.shiftRight_eq_div_pow]
  omega

@[simp] theorem firstByte_join (b1 b0 : Byte) : firstByte (b1 ++ b0) = b0 := by
  apply BitVec.eq_of_toNat_eq
  rw [firstByte_toNat, toNat_join]
  have := b0.isLt
  omega

@[simp] theorem secondByte_join (b1 b0 : Byte) : secondByte (b1 ++ b0) = b1 := by
  apply BitVec.eq_of_toNat_eq
  rw [secondByte_toNat, toNat_join]
  have := b0.isLt
  omega

/-- The first byte of a Set Target frame (40_frame_codec R92): the marker plus the low five bits. -/
theorem setByte0_toNat (v : Half) : (setByte0 v).toNat = 192 + v.toNat % 32 := by
  have h : v.toNat % 2 ^ 5 < 2 ^ 5 := by omega
  have h6 : (192 : Nat) = 6 <<< 5 := by decide
  simp only [setByte0, setMarker, setLoMask, BitVec.toNat_setWidth, BitVec.toNat_or, BitVec.toNat_and]
  rw [show BitVec.toNat (31 : Half) = 2 ^ 5 - 1 by decide, Nat.and_two_pow_sub_one_eq_mod,
    show BitVec.toNat (192 : Half) = 6 <<< 5 by decide, ← Nat.shiftLeft_add_eq_or_of_lt h, ← h6]
  omega

/-- The second byte (R92): the next seven bits. -/
theorem setByte1_toNat (v : Half) : (setByte1 v).toNat = v.toNat / 32 % 128 := by
  simp only [setByte1, setHiMask, setHiShift, BitVec.toNat_setWidth, BitVec.toNat_and, BitVec.toNat_ushiftRight]
  rw [show BitVec.toNat (127 : Half) = 2 ^ 7 - 1 by decide, Nat.and_two_pow_sub_one_eq_mod, Nat.shiftRight_eq_div_pow]
  omega

/-- The bytes of an encoded Set Target frame, in the order sent. -/
@[simp] theorem frameBytes_encodeSetTarget (v : Half) :
    frameBytes (encodeSetTarget v).len (encodeSetTarget v).data = [setByte0 v, setByte1 v] := by
  simp [frameBytes, encodeSetTarget, setReqLen]

@[simp] theorem frameBytes_encodeGetFeedback :
    frameBytes encodeGetFeedback.len encodeGetFeedback.data = [opcGetFeedback] := by decide

@[simp] theorem frameBytes_encodeGetTarget :
    frameBytes encodeGetTarget.len encodeGetTarget.data = [opcGetTarget] := by decide

end Sys2Proof.Machine
end

