-- ==== Sys2Proof/Laws/Exchange.lean ====
section
/-! SUPPORT. The exchange level, case by case: what each command's rule gives for each completion, and what the registers hold
once a command is accepted. -/

namespace Sys2Proof.Machine

/-- A hard write error ends every command that sends a frame (41_exchange R118 to R121). -/
theorem exchange_error {i : Instr} {f : Frame} (h : frameOf i = some f) (c : Cause) (r : ReadCompletion) :
    exchange i (.error c) r = ⟨[.write f.len (frameBytes f.len f.data)], .writeFailed c⟩ := by
  cases i with
  | settgC v =>
    by_cases hv : inRange v <;> simp [frameOf, hv] at h
    subst h
    rw [frameBytes_encodeSetTarget]
    simp [exchange, exchangeSettgC, exchangeSettg, hv, encodeSetTarget, setReqLen]
  | settg v =>
    simp only [frameOf, Option.some.injEq] at h
    subst h
    rw [frameBytes_encodeSetTarget]
    rfl
  | op3 _ _ => simp [frameOf] at h
  | getfb _ _ => simp only [frameOf, Option.some.injEq] at h; subst h; rfl
  | gettg _ _ => simp only [frameOf, Option.some.injEq] at h; subst h; rfl

/-- A count other than the length ends every command that sends a frame. -/
theorem exchange_incomplete {i : Instr} {f : Frame} (h : frameOf i = some f) {k : BitVec 2} (hk : k ≠ f.len) (r : ReadCompletion) :
    exchange i (.count k) r = ⟨[.write f.len (frameBytes f.len f.data)], .writeIncomplete f.len k⟩ := by
  cases i with
  | settgC v =>
    by_cases hv : inRange v <;> simp [frameOf, hv] at h
    subst h
    rw [frameBytes_encodeSetTarget]
    simp_all [exchange, exchangeSettgC, exchangeSettg, encodeSetTarget, setReqLen]
  | settg v =>
    simp only [frameOf, Option.some.injEq] at h
    subst h
    rw [frameBytes_encodeSetTarget]
    simp_all [exchange, exchangeSettg, encodeSetTarget, setReqLen]
  | op3 _ _ => simp [frameOf] at h
  | getfb _ _ =>
    simp only [frameOf, Option.some.injEq] at h
    subst h
    rw [frameBytes_encodeGetFeedback]
    simp_all [exchange, exchangeGetfb, encodeGetFeedback, getReqLen, opcGetFeedback]
  | gettg _ _ =>
    simp only [frameOf, Option.some.injEq] at h
    subst h
    rw [frameBytes_encodeGetTarget]
    simp_all [exchange, exchangeGettg, encodeGetTarget, getReqLen, opcGetTarget]

/-- A full write ends a Set Target. -/
theorem exchange_ack {i : Instr} {f : Frame} (h : frameOf i = some f) (ho : i.op = 2) (r : ReadCompletion) :
    exchange i (.count f.len) r = ⟨[.write f.len (frameBytes f.len f.data)], .okAck⟩ := by
  cases i with
  | settgC v =>
    by_cases hv : inRange v <;> simp [frameOf, hv] at h
    subst h
    rw [frameBytes_encodeSetTarget]
    simp [exchange, exchangeSettgC, exchangeSettg, hv, encodeSetTarget, setReqLen]
  | settg v =>
    simp only [frameOf, Option.some.injEq] at h
    subst h
    rw [frameBytes_encodeSetTarget]
    rfl
  | op3 _ _ => simp [frameOf] at h
  | getfb _ _ => simp [Instr.op] at ho
  | gettg _ _ => simp [Instr.op] at ho

/-- A full write goes on to the one read of a GET, whose completion gives the result. -/
theorem exchange_read {i : Instr} {f : Frame} (h : frameOf i = some f) (ho : i.op ≠ 2) (r : ReadCompletion) :
    f.len = 1 ∧ exchange i (.count 1) r = ⟨[.write f.len (frameBytes f.len f.data), .read 2], readResult r⟩ := by
  cases i with
  | settgC _ => simp [Instr.op] at ho
  | settg _ => simp [Instr.op] at ho
  | op3 _ _ => simp [frameOf] at h
  | getfb _ _ => simp only [frameOf, Option.some.injEq] at h; subst h; exact ⟨rfl, rfl⟩
  | gettg _ _ => simp only [frameOf, Option.some.injEq] at h; subst h; exact ⟨rfl, rfl⟩

/-- A command that sends no frame has its result at acceptance, whatever the channel does. -/
theorem exchange_immediate {i : Instr} (h : frameOf i = none) (w : WriteCompletion) (r : ReadCompletion) :
    (exchange i w r).requests = [] ∧ (exchange i w r).result = (exchange i (.count 0) .noByte).result := by
  cases i with
  | settgC v =>
    by_cases hv : inRange v <;> simp [frameOf, hv] at h
    simp [exchange, exchangeSettgC, hv]
  | op3 _ _ => exact ⟨rfl, rfl⟩
  | settg _ => simp [frameOf] at h
  | getfb _ _ => simp [frameOf] at h
  | gettg _ _ => simp [frameOf] at h

/-- Acceptance writes the command's code and clears the result fields, for every command. -/
theorem acceptedRegs_common (i : Instr) (r : Regs) : (acceptedRegs i r).opQ = i.op ∧ (acceptedRegs i r).Cleared := by
  cases i with
  | settgC v => by_cases h : inRange v <;> simp [acceptedRegs, Instr.op, Regs.Cleared, h]
  | _ => simp [acceptedRegs, Instr.op, Regs.Cleared]

/-- Acceptance of a command that sends a frame. -/
theorem acceptedRegs_frame {i : Instr} {f : Frame} (h : frameOf i = some f) (r : Regs) :
    (acceptedRegs i r).seq = .wrReq ∧ (acceptedRegs i r).lenQ = f.len ∧ (acceptedRegs i r).frameQ = f.data ∧
    (acceptedRegs i r).rspStatusQ = r.rspStatusQ := by
  cases i with
  | settgC v =>
    by_cases hv : inRange v <;> simp [frameOf, hv] at h
    subst h
    simp [acceptedRegs, hv]
  | op3 _ _ => simp [frameOf] at h
  | _ => simp only [frameOf, Option.some.injEq] at h; subst h; simp [acceptedRegs]

/-- Acceptance of a command that sends none: its result at once. -/
theorem acceptedRegs_immediate {i : Instr} (h : frameOf i = none) (r : Regs) :
    (acceptedRegs i r).seq = .resp ∧ (acceptedRegs i r).result = (exchange i (.count 0) .noByte).result := by
  cases i with
  | settgC v =>
    by_cases hv : inRange v <;> simp [frameOf, hv] at h
    simp [acceptedRegs, hv, Regs.result, exchange, exchangeSettgC]
  | op3 _ _ => simp [acceptedRegs, Regs.result, exchange, exchangeOp3]
  | _ => simp [frameOf] at h

/-- The result a read completion leaves in cleared registers is the one its rule gives (R117, R118). -/
theorem Regs.readDone_result {r : Regs} {i : Inputs} {c : ReadCompletion} (h : i.readCompletion = some c) :
    (r.readDone i).result = readResult c := by
  have hv : i.rdDoneValid = true := by
    unfold Inputs.readCompletion at h
    by_contra hn
    simp [hn] at h
  rw [Inputs.readCompletion, if_pos hv] at h
  injection h with h
  subst h
  rcases r.readDone_cases i with ⟨he, e⟩ | ⟨he, hc, e⟩ | ⟨he, hc, e⟩ <;> rw [e]
  · simp [he, Regs.result, readResult]
  · simp only [he]
    have h4 : ∀ k : BitVec 2, k = 0 ∨ k = 1 ∨ k = 2 ∨ k = 3 := by decide
    rcases h4 i.rdDoneCount with h | h | h | h <;> simp_all [Regs.result, readResult]
  · simp [he, hc, Regs.result, readResult]

end Sys2Proof.Machine
end

