-- ==== Sys2Proof/Tests/Slice0.lean ====
section
/-! SUPPORT. Tests of the model against the spec's tables and worked examples, and a witness for the hypotheses of each statement. -/

namespace Sys2Proof.Tests

open Sys2Proof.Machine

/-! ### Helpers -/

/-- The reset state moved to a place in an exchange, with a script of coming samples. -/
def stateIn (seq : Seq) (op len : BitVec 2) (frame : Half) (env : List Inputs) : State :=
  { State.reset with regs := { Regs.reset with seq := seq, opQ := op, lenQ := len, frameQ := frame }, env := env }

/-- A sample with a write completion. -/
def wDone (err : Bool) (count : BitVec 2) : Inputs :=
  { Inputs.quiet with wrDoneValid := true, wrDoneErr := err, wrDoneCount := count }

/-- A sample with a read completion. -/
def rDone (err : Bool) (count : BitVec 2) (data : Half) : Inputs :=
  { Inputs.quiet with rdDoneValid := true, rdDoneErr := err, rdDoneCount := count, rdDoneData := data }

/-- A sample in which the channel takes requests. -/
def chReady : Inputs := { Inputs.quiet with wrReqReady := true, rdReqReady := true }

/-- A sample in which the caller takes a result. -/
def takes : Inputs := { Inputs.quiet with rspReady := true }

/-- A sample of the reset step. -/
def resets : Inputs := { Inputs.quiet with rst := true }

/-- What a test looks at: the three-bit code of `state`, then the result outputs. -/
def view (o : Host.Outcome State Fault Refusal) : Option (BitVec 3 × BitVec 2 × BitVec 3 × Half × BitVec 2 × BitVec 2) :=
  match o with
  | .next t =>
    let p := t.regs.outputs
    some (t.regs.seq.code, p.rspOp, p.rspStatus, p.rspValue, p.rspExpected, p.rspActual)
  | .fault _ => none
  | .refused _ => none

/-- The write request a state presents: length and data lanes. -/
def writeView (o : Host.Outcome State Fault Refusal) : Option (Bool × BitVec 2 × Half) :=
  match o with
  | .next t => some (t.regs.outputs.wrReqValid, t.regs.outputs.wrReqLen, t.regs.outputs.wrReqData)
  | .fault _ => none
  | .refused _ => none

/-- The recorded fault bits after a step. -/
def faultView (o : Host.Outcome State Fault Refusal) : Option FaultBits :=
  match o with
  | .next t => some t.faults
  | .fault _ => none
  | .refused _ => none

/-! ### Well-formed commands -/

/-- 30_encoding R82: the notation gives GETFB no fields, so a set ignored bit is refused. -/
theorem test_canonical_refuses_getfb_checked : (Instr.getfb true 0).canonical = false := by decide

/-- R82, GETTG: a set value is refused. -/
theorem test_canonical_refuses_gettg_value : (Instr.gettg false 1).canonical = false := by decide

/-- R82, OP3: both fields set is refused. -/
theorem test_canonical_refuses_op3_fields : (Instr.op3 true 0x1234).canonical = false := by decide

/-- 30_encoding R80: the ignored fields may hold anything on the port, and a checked value may be above 4095. -/
theorem test_wellFormed_admits_every_field :
    (Instr.op3 true 0x1234).wellFormed = true ∧ (Instr.settgC 65535).wellFormed = true := by decide

/-! ### Decoding, from the encodings of opcode_table.json -/

/-- GETFB, `x00xxxxxxxxxxxxxxxx`, both fields 0 (V5). -/
theorem test_decode_getfb : decodeTableWord 24 0b0_00_0000000000000000 = some (.getfb false 0) := by decide

/-- GETFB with `cmd_checked` = 1 and `cmd_value` = 0xFFFF (V5, last row). -/
theorem test_decode_getfb_ignored : decodeTableWord 24 0b1_00_1111111111111111 = some (.getfb true 0xFFFF) := by decide

/-- GETTG, `x01xxxxxxxxxxxxxxxx`. -/
theorem test_decode_gettg : decodeTableWord 24 0b0_01_0000000000000000 = some (.gettg false 0) := by decide

/-- SETTG 1895, `010vvvvvvvvvvvvvvvv` (P1, 0x20767). -/
theorem test_decode_settg : decodeTableWord 24 0b0_10_0000011101100111 = some (.settg 1895) := by decide

/-- SETTG.C 4095, `110vvvvvvvvvvvvvvvv` (V6, 0x60FFF). -/
theorem test_decode_settgC : decodeTableWord 24 0b1_10_0000111111111111 = some (.settgC 4095) := by decide

/-- OP3 with fields, `x11xxxxxxxxxxxxxxxx` (V7, 0x71234). -/
theorem test_decode_op3 : decodeTableWord 24 0b1_11_0001001000110100 = some (.op3 true 0x1234) := by decide

/-- A bit above the 19 of a command word is refused by name (log 4). -/
theorem test_decode_refuses_bit_19 : decode [0, 0, 8] = .error .bitsAboveCommandWord := by decide

/-! ### The codec (95_test_vectors V1 to V4) -/

/-- V1: 31, 32, 4095 and the wraps of 4096 and 5000. -/
theorem test_encode_set_target :
    [31, 32, 4095, 4096, 5000].map encodeSetTarget =
      [⟨2, 0x00DF⟩, ⟨2, 0x01C0⟩, ⟨2, 0x7FDF⟩, ⟨2, 0x00C0⟩, ⟨2, 0x1CC8⟩] := by decide

/-- V3: the largest conforming value, bit 7 of `hi`, and the bytes of 1000 in the wrong order. -/
theorem test_decode_response :
    [decodeResponse 0xFF 0x0F, decodeResponse 0x00 0x80, decodeResponse 0x03 0xE8] = [4095, 32768, 59395] := by decide

/-- V4: 1895, marker bits discarded, and `b1` bit 7 discarded. -/
theorem test_decode_set_payload :
    [decodeSetPayload 0xC7 0x3B, decodeSetPayload 0xFF 0xFF, decodeSetPayload 0x1F 0x80] = [1895, 4095, 31] := by decide

/-! ### One step of each command -/

/-- GETFB placed at reset: WR_REQ, request `A5` (V2, R118). -/
theorem test_getfb_first_edge :
    writeView (step (State.reset.withFetchWord 24 0x00000)) = some (true, 1, 0x00A5) := by decide

/-- GETFB, read completion Count(2, [E8, 03]): OK_VALUE 1000 (V5). -/
theorem test_getfb_value :
    view (exec (.getfb false 0) (stateIn .rdWait 0 1 0x00A5 [rDone false 2 0x03E8])) = some (5, 0, 0, 1000, 0, 0) := by decide

/-- GETTG placed at reset: WR_REQ, request `A3` (V2, R119). -/
theorem test_gettg_first_edge :
    writeView (step (State.reset.withFetchWord 24 0x10000)) = some (true, 1, 0x00A3) := by decide

/-- GETTG, read completion Count(1, [34]): READ_INCOMPLETE, expected 2, actual 1, value 0 (V5, E4). -/
theorem test_gettg_short_read :
    view (exec (.gettg false 0) (stateIn .rdWait 1 1 0x00A3 [rDone false 1 0x0034])) = some (5, 1, 4, 0, 2, 1) := by decide

/-- SETTG 5000 placed at reset: the wrapped frame `C8 1C` (V6). -/
theorem test_settg_first_edge :
    writeView (step (State.reset.withFetchWord 24 0x21388)) = some (true, 2, 0x1CC8) := by decide

/-- SETTG 2048, write completion Count(1): WRITE_INCOMPLETE, expected 2, actual 1 (V6). -/
theorem test_settg_short_write :
    view (exec (.settg 2048) (stateIn .wrWait 2 2 0x40C0 [wDone false 1])) = some (5, 2, 2, 0, 2, 1) := by decide

/-- SETTG.C 4095 placed at reset: the largest accepted value, frame `DF 7F` (V6). -/
theorem test_settgC_accepts_4095 :
    writeView (step (State.reset.withFetchWord 24 0x60FFF)) = some (true, 2, 0x7FDF) := by decide

/-- SETTG.C 4096 placed at reset: VALUE_REJECTED, no request (V6). -/
theorem test_settgC_rejects_4096 :
    view (step (State.reset.withFetchWord 24 0x61000)) = some (5, 2, 6, 0, 0, 0) := by decide

/-- OP3 placed at reset: ILLEGAL_OP (V7). -/
theorem test_op3_first_edge : view (step (State.reset.withFetchWord 24 0x71234)) = some (5, 3, 7, 0, 0, 0) := by decide

/-- A write completion in IDLE changes no register and is recorded (V7). -/
theorem test_stray_completion :
    view (step (stateIn .idle 0 0 0 [wDone false 1])) = some (0, 0, 0, 0, 0, 0) ∧
    faultView (step (stateIn .idle 0 0 0 [wDone false 1])) = some ⟨true, false, false, false⟩ := by decide

/-- GETFB, write completion Count(3): WRITE_INCOMPLETE with actual 3 and the fault count_over_request alone (V5). -/
theorem test_count_over_request :
    faultView (step { stateIn .wrWait 0 1 0x00A5 [wDone false 3] with channel := ⟨[⟨.write 1 [0xA5], 0⟩], []⟩ })
      = some ⟨false, true, false, false⟩ := by decide

/-- The same count at a reset edge in WR_WAIT: the completion is lost to the block, is no stray one, and its count is recorded
(R54). -/
theorem test_count_over_request_at_reset :
    faultView (step { stateIn .wrWait 0 1 0x00A5 [{ wDone false 2 with rst := true }] with
      channel := ⟨[⟨.write 1 [0xA5], 0⟩], []⟩ }) = some ⟨false, true, false, false⟩ := by decide

/-- A completion in IDLE at a reset edge, the abandoned write it answers outstanding, is recorded as stray (R124). -/
theorem test_stray_completion_at_reset :
    faultView (step { stateIn .idle 0 0 0 [{ wDone false 1 with rst := true }] with
      channel := ⟨[⟨.write 1 [0xA5], 0⟩], []⟩ }) = some ⟨true, false, false, false⟩ := by decide

/-- `rst` in RD_WAIT: every register to its reset value (V7). -/
theorem test_reset_in_flight :
    view (step (stateIn .rdWait 1 1 0x00A3 [resets])) = some (0, 0, 0, 0, 0, 0) := by decide

/-! ### Witnesses: for each statement with hypotheses, a concrete state and operands that meet all of them

Named `witness_<statement>`, with a clause's name added where a statement has several clauses. -/

theorem witness_NonCommandWordsAreRejected : 8 ≤ (8 : Byte).toNat ∧ ([1, 2] : List Byte).length < 3 := by decide

theorem witness_SetTargetFramesMaskAndAreInjective :
    ((0x1005 : Half).extractLsb' 0 12 = (0x0005 : Half).extractLsb' 0 12) ∧
    ((4095 : Half).toNat ≤ 4095 ∧ encodeSetTarget 4095 = encodeSetTarget 4095) := by decide

theorem witness_SetPayloadRoundTrip : (4095 : Half).toNat ≤ 4095 := by decide

theorem witness_ResponseDecodeIsLoPlus256Hi : decodeResponse 0xFF 0x0F = decodeResponse 0xFF 0x0F := rfl

theorem witness_FirstByteNamesTheFrame :
    encodeFrame 2 4095 = some ⟨2, 0x7FDF⟩ ∧ firstByte (0x7FDF : Half) = firstByte (0x7FDF : Half) ∧ (encodeGetTarget = encodeGetFeedback ∨ encodeGetTarget = encodeGetTarget) := by decide

theorem witness_TopBitStartsAFrame_first : (0xC0 : Byte).extractLsb' 5 3 = 0b110#3 ∧ (0xDF : Byte).extractLsb' 5 3 = 0b110#3 ∧
    LegalFrame [0xA5] := ⟨by decide, by decide, .inl (by decide)⟩

theorem witness_TopBitStartsAFrame : Framed ([0xC0, 0x00] ++ 0xA5 :: []) ∧ (0xA5 : Byte).getLsbD 7 = true := by
  refine ⟨⟨[[0xC0, 0x00], [0xA5]], ?_, rfl⟩, by decide⟩
  intro f hf
  simp only [List.mem_cons, List.not_mem_nil, or_false] at hf
  rcases hf with rfl | rfl
  · exact .inr (.inr ⟨0, by decide⟩)
  · exact .inl (by decide)

theorem witness_GetCommandsAreAcceptedInIdle : State.reset.regs.seq = .idle := rfl

theorem witness_SetCommandsAreAcceptedInIdle : State.reset.regs.seq = .idle ∧ (4095 : Half).toNat ≤ 4095 := by decide

theorem witness_CheckedSetRejectsAboveRange : State.reset.regs.seq = .idle ∧ 4095 < (4096 : Half).toNat := by decide

theorem witness_ReservedCodeEndsIllegal : State.reset.regs.seq = .idle := rfl

/-- No command. -/
theorem witness_IdleAcceptsThePresentedCommand_none :
    let s := stateIn .idle 0 0 0 [Inputs.quiet]
    s.regs.seq = .idle ∧ s.inputs.rst = false ∧ s.inputs.cmdValid = false := by decide

/-- Each command code. -/
theorem witness_IdleAcceptsThePresentedCommand_codes :
    let s (cw : CommandWord) := stateIn .idle 0 0 0 [Inputs.presenting cw]
    (∀ cw, (s cw).regs.seq = .idle ∧ (s cw).inputs.rst = false ∧ (s cw).inputs.cmdValid = true) ∧
    (s 0x00000).inputs.cmdOp = 0 ∧ (s 0x10000).inputs.cmdOp = 1 ∧ (s 0x30000).inputs.cmdOp = 3 :=
  ⟨fun _ => ⟨rfl, rfl, rfl⟩, rfl, rfl, rfl⟩

/-- Both sides of the checked bound, and an unchecked value. -/
theorem witness_IdleAcceptsThePresentedCommand_set :
    let s (c : Bool) (v : Half) := stateIn .idle 0 0 0 [{ Inputs.quiet with cmdValid := true, cmdOp := 2, cmdChecked := c, cmdValue := v }]
    (∀ c v, (s c v).regs.seq = .idle ∧ (s c v).inputs.rst = false ∧ (s c v).inputs.cmdValid = true ∧ (s c v).inputs.cmdOp = 2) ∧
    ((s true 4096).inputs.cmdChecked = true ∧ 4095 < (s true 4096).inputs.cmdValue.toNat) ∧
    (s true 4095).inputs.cmdValue.toNat ≤ 4095 ∧ (s false 65535).inputs.cmdChecked = false :=
  ⟨fun _ _ => ⟨rfl, rfl, rfl, rfl⟩, ⟨rfl, (by decide : 4095 < (4096 : Half).toNat)⟩, (by decide : (4095 : Half).toNat ≤ 4095), rfl⟩

theorem witness_IgnoredFieldsHaveNoEffect : (4095 : Half).toNat ≤ 4095 := by decide

theorem witness_WriteRequestIsPresentedUntilTaken :
    let s := stateIn .wrReq 2 2 0x7FDF [chReady]
    let s' := stateIn .wrReq 0 1 0x00A5 [Inputs.quiet]
    (s.regs.seq = .wrReq ∧ s.inputs.wrReqReady = true ∧ s.inputs.rst = false) ∧
    (s'.regs.seq = .wrReq ∧ s'.inputs.wrReqReady = false) := by decide

/-- No completion; a hard error; counts 0, 1 and 3 of 2; the full count of a SET and of a GET. -/
theorem witness_WriteCompletionEndsOrContinues :
    let s (i : Inputs) := stateIn .wrWait 2 2 0x7FDF [i]
    let g := stateIn .wrWait 1 1 0x00A3 [wDone false 1]
    ((s Inputs.quiet).regs.seq = .wrWait ∧ (s Inputs.quiet).inputs.wrDoneValid = false) ∧
    ((s (wDone true 2)).inputs.wrDoneValid = true ∧ (s (wDone true 2)).inputs.wrDoneErr = true) ∧
    (∀ k ∈ [0, 1, 3], (s (wDone false k)).inputs.wrDoneValid = true ∧ (s (wDone false k)).inputs.wrDoneErr = false ∧
      (s (wDone false k)).inputs.wrDoneCount ≠ (s (wDone false k)).regs.lenQ ∧ (s (wDone false k)).inputs.rst = false ∧
      (s (wDone false k)).brokenPremise = none) ∧
    ((s (wDone false 2)).inputs.wrDoneValid = true ∧ (s (wDone false 2)).inputs.wrDoneErr = false ∧
      (s (wDone false 2)).inputs.wrDoneCount = (s (wDone false 2)).regs.lenQ ∧ (s (wDone false 2)).regs.opQ = 2) ∧
    (g.regs.seq = .wrWait ∧ g.inputs.wrDoneValid = true ∧ g.inputs.wrDoneErr = false ∧
      g.inputs.wrDoneCount = g.regs.lenQ ∧ g.regs.opQ ≠ 2) := by decide

theorem witness_ReadIsRequestedOnceAfterFullWrite :
    let s := stateIn .rdReq 0 1 0x00A5 [chReady]
    let s' := stateIn .rdReq 1 1 0x00A3 [Inputs.quiet]
    let s'' := stateIn .rdWait 1 1 0x00A3 [Inputs.quiet]
    let s''' := stateIn .rdWait 1 1 0x00A3 [rDone false 2 0x0FFF]
    (s'''.regs.seq = .rdWait ∧ s'''.inputs.rdDoneValid = true) ∧ (s.regs.seq = .rdReq ∧ s.inputs.rdReqReady = true ∧ s.inputs.rst = false) ∧
    (s'.regs.seq = .rdReq ∧ s'.inputs.rdReqReady = false) ∧ (s''.regs.seq = .rdWait ∧ s''.inputs.rdDoneValid = false) := by decide

/-- The entry into RD_REQ. -/
theorem witness_ReadIsRequestedOnceAfterFullWrite_entry :
    let s := stateIn .wrWait 0 1 0x00A5 [wDone false 1]
    ∃ s', step s = .next s' ∧ s.regs.seq ≠ .rdReq ∧ s'.regs.seq = .rdReq := ⟨_, rfl, by decide, rfl⟩

/-- A hard error; counts 0, 1 and 3; the full count. -/
theorem witness_ReadCompletionEndsTheExchange :
    let s (i : Inputs) := stateIn .rdWait 0 1 0x00A5 [i]
    ((s (rDone true 2 0)).regs.seq = .rdWait ∧ (s (rDone true 2 0)).inputs.rdDoneValid = true ∧
      (s (rDone true 2 0)).inputs.rdDoneErr = true) ∧
    (∀ k ∈ [0, 1, 3], (s (rDone false k 0)).inputs.rdDoneValid = true ∧ (s (rDone false k 0)).inputs.rdDoneErr = false ∧
      (s (rDone false k 0)).inputs.rdDoneCount ≠ 2 ∧ (s (rDone false k 0)).inputs.rst = false ∧
      (s (rDone false k 0)).brokenPremise = none) ∧
    ((s (rDone false 2 0x0FFF)).inputs.rdDoneValid = true ∧ (s (rDone false 2 0x0FFF)).inputs.rdDoneErr = false ∧
      (s (rDone false 2 0x0FFF)).inputs.rdDoneCount = 2) := by decide

theorem witness_ResultIsPresentedUntilTaken :
    let s := stateIn .resp 2 2 0x7FDF [takes]
    let s' := stateIn .resp 2 2 0x7FDF [Inputs.quiet]
    (s.regs.seq = .resp ∧ s.inputs.rspReady = true ∧ s.inputs.rst = false) ∧ (s'.regs.seq = .resp ∧ s'.inputs.rspReady = false) := by decide

/-- An acceptance, and an edge in flight that presents READ_INCOMPLETE: it meets the premises of the request, value and cause
clauses. -/
theorem witness_ExecFrame :
    (∃ t, exec (.settg 1895) State.reset = .next t ∧ t.regs.seq ≠ .resp) ∧
    (let s := stateIn .rdWait 0 1 0x00A5 [rDone false 1 0x0034]
     ∃ t, exec (.getfb false 0) s = .next t ∧ s.regs.seq ≠ .idle ∧ t.regs.rspStatusQ = .readIncomplete) :=
  ⟨⟨_, rfl, by decide⟩, ⟨_, rfl, by decide, rfl⟩⟩

/-- The counts clause: an OK_VALUE edge. -/
theorem witness_ExecFrame_counts :
    let s := stateIn .rdWait 0 1 0x00A5 [rDone false 2 0x03E8]
    ∃ t, exec (.getfb false 0) s = .next t ∧ s.regs.seq ≠ .idle ∧ t.regs.seq = .resp ∧ t.regs.rspStatusQ = .okValue :=
  ⟨_, rfl, by decide, rfl, rfl⟩

theorem witness_StepRunsThePresentedCommand :
    let s := stateIn .idle 0 0 0 [Inputs.presenting 0x20767]
    s.regs.seq = .idle ∧ s.inputs.rst = false ∧ s.inputs.cmdValid = true ∧ decodeWord s.inputs.commandWord = .settg 1895 := by decide

theorem witness_StepRunsTheExchangeInFlight :
    let s := stateIn .rdWait 0 1 0x00A5 [rDone false 2 0x03E8]
    let s' := stateIn .idle 0 0 0 [Inputs.quiet]
    (s.regs.seq ≠ .idle ∧ s.brokenPremise = none ∧ s.inputs.rst = false) ∧
    (s'.regs.seq = .idle ∧ s'.inputs.rst = false ∧ s'.inputs.cmdValid = false) := by decide

theorem witness_StepRefusesOnlyABrokenPremise :
    let s := stateIn .rdWait 0 1 0x00A5 [{ Inputs.quiet with otherAgent := true, channelClosed := true }]
    let s' := stateIn .resp 0 1 0x00A5 [{ Inputs.quiet with channelClosed := true }]
    (s.regs.seq ≠ .idle ∧ s.inputs.otherAgent = true) ∧
    (s'.regs.seq ≠ .idle ∧ s'.inputs.otherAgent = false ∧ s'.inputs.channelClosed = true) := by decide

theorem witness_ResetStepWritesEveryRegister :
    let s := stateIn .wrWait 2 2 0x7FDF [{ Inputs.presenting 0x20767 with rst := true, wrDoneValid := true }]
    s.brokenPremise = none ∧ s.inputs.rst = true := by decide

theorem witness_OutputsAfterReset :
    (stateIn .idle 0 0 0 [Inputs.presenting 0]).regs = State.reset.regs := rfl

theorem witness_ResetCancelsNoChannelRequest :
    let s := { stateIn .wrWait 2 2 0x7FDF [resets] with channel := ⟨[⟨.write 2 [0xDF, 0x7F], 0⟩], []⟩ }
    ∃ t, step s = .next t ∧ s.inputs.rst = true ∧ s.inputs.wrDoneValid = false ∧ s.inputs.rdDoneValid = false :=
  ⟨_, rfl, rfl, rfl, rfl⟩

theorem witness_StrayCompletionsAreIgnoredAndRecorded :
    (resets.otherAgent = false ∧ resets.channelClosed = false) ∧ (stateIn .rdWait 0 1 0x00A5 []).regs.seq ≠ .wrWait ∧
    (stateIn .wrWait 0 1 0x00A5 []).regs.seq ≠ .rdWait := ⟨⟨rfl, rfl⟩, by decide, by decide⟩

theorem witness_HardErrorBeatsCount :
    (let s := stateIn .wrWait 0 1 0x00A5 [wDone true 1]
     ∃ t, exec (.getfb false 0) s = .next t ∧ s.regs.seq = .wrWait ∧ s.inputs.wrDoneValid = true ∧ s.inputs.wrDoneErr = true) ∧
    (let s := stateIn .rdWait 0 1 0x00A5 [rDone true 2 0x03E8]
     ∃ t, exec (.getfb false 0) s = .next t ∧ s.regs.seq = .rdWait ∧ s.inputs.rdDoneValid = true ∧ s.inputs.rdDoneErr = true) :=
  ⟨⟨_, rfl, rfl, rfl, rfl⟩, ⟨_, rfl, rfl, rfl, rfl⟩⟩

theorem witness_AtMostOneTransferPerEdge :
    (stateIn .rdWait 0 1 0x00A5 [resets]).inputs.rst = true ∧
    (stateIn .idle 0 0 0 [Inputs.presenting 0]).commandTransfers = true := by decide

theorem witness_PresentedOutputsHold :
    (let s := stateIn .resp 3 0 0 [Inputs.presenting 0]
     ∃ t, step s = .next t ∧ s.inputs.rst = false ∧ s.regs.outputs.rspValid = true ∧ s.inputs.rspReady = false) ∧
    (let s := stateIn .wrReq 2 2 0x7FDF [Inputs.quiet]
     ∃ t, step s = .next t ∧ s.inputs.rst = false ∧ s.regs.outputs.wrReqValid = true ∧ s.inputs.wrReqReady = false) ∧
    (let s := stateIn .rdReq 0 1 0x00A5 [Inputs.quiet]
     ∃ t, step s = .next t ∧ s.inputs.rst = false ∧ s.regs.outputs.rdReqValid = true ∧ s.inputs.rdReqReady = false) :=
  ⟨⟨_, rfl, rfl, rfl, rfl⟩, ⟨_, rfl, rfl, rfl, rfl⟩, ⟨_, rfl, rfl, rfl, rfl⟩⟩

/-- The clause on edges without a transfer: IDLE under reset, two different commands on the port. -/
theorem witness_CommandTransferAndHoldRule_noTransfer :
    let quiet := stateIn .resp 0 1 0x00A5 [Inputs.quiet]
    let changed := stateIn .resp 0 1 0x00A5 [{ Inputs.quiet with cmdValid := true, cmdOp := 2, cmdChecked := true, cmdValue := 7 }]
    quiet.commandTransfers = false ∧ changed.commandTransfers = false ∧ (∃ t, step quiet = .next t) ∧ ∃ t, step changed = .next t :=
  ⟨rfl, rfl, ⟨_, rfl⟩, ⟨_, rfl⟩⟩

/-- The hold rule: a command presented in RESP and withdrawn at the next edge. -/
theorem witness_CommandTransferAndHoldRule_withdrawn :
    let s := stateIn .resp 0 1 0x00A5 [Inputs.presenting 0x20767, Inputs.quiet]
    ∃ s' s'', step s = .next s' ∧ step s' = .next s'' ∧ s.inputs.cmdValid = true ∧ s.commandTransfers = false ∧
      s'.inputs.cmdValid = false := ⟨_, _, rfl, rfl, rfl, rfl, rfl⟩

/-- The outstanding request's clause: at a reset edge in WR_WAIT, and a read's count 3 in IDLE. -/
theorem witness_CountAboveRequestIsReportedAndRecorded_outstanding :
    (let s := { stateIn .wrWait 0 1 0x00A5 [{ wDone false 2 with rst := true }] with channel := ⟨[⟨.write 1 [0xA5], 0⟩], []⟩ }
     (∃ t, step s = .next t) ∧ s.inputs.wrDoneValid = true ∧ s.inputs.wrDoneErr = false ∧
      s.channel.outstanding = [.write 1 [0xA5]] ∧ (1 : BitVec 2).toNat < s.inputs.wrDoneCount.toNat) ∧
    (let s := { stateIn .idle 0 0 0 [rDone false 3 0] with channel := ⟨[⟨.read 2, 0⟩], []⟩ }
     (∃ t, step s = .next t) ∧ s.inputs.rdDoneValid = true ∧ s.inputs.rdDoneErr = false ∧
      s.channel.outstanding = [.read 2] ∧ (2 : BitVec 2).toNat < s.inputs.rdDoneCount.toNat) :=
  ⟨⟨⟨_, rfl⟩, rfl, rfl, rfl, by decide⟩, ⟨_, rfl⟩, rfl, rfl, rfl, by decide⟩

/-- A write count of 2 and of 3 for one byte, and a read count of 3. -/
theorem witness_CountAboveRequestIsReportedAndRecorded :
    (∀ k ∈ [2, 3], let s := stateIn .wrWait 0 1 0x00A5 [wDone false k]
      (∃ t, step s = .next t) ∧ s.inputs.rst = false ∧ s.regs.seq = .wrWait ∧ s.inputs.wrDoneValid = true ∧
      s.inputs.wrDoneErr = false ∧ s.regs.lenQ.toNat < s.inputs.wrDoneCount.toNat) ∧
    (let s := stateIn .rdWait 0 1 0x00A5 [rDone false 3 0]
     (∃ t, step s = .next t) ∧ s.inputs.rst = false ∧ s.regs.seq = .rdWait ∧ s.inputs.rdDoneValid = true ∧
      s.inputs.rdDoneErr = false ∧ s.inputs.rdDoneCount = 3) := by
  refine ⟨?_, ⟨_, rfl⟩, rfl, rfl, rfl, rfl, rfl⟩
  intro k hk
  simp only [List.mem_cons, List.not_mem_nil, or_false] at hk
  rcases hk with rfl | rfl <;> exact ⟨⟨_, rfl⟩, rfl, rfl, rfl, rfl, by decide⟩

theorem witness_UnrequestedCompletionIsRecorded :
    let s := stateIn .wrWait 0 1 0x00A5 [{ wDone false 1 with rdDoneValid := true }]
    (∃ t, step s = .next t) ∧ s.inputs.wrDoneValid = true ∧ s.inputs.rdDoneValid = true ∧ s.channel.outstanding = [] :=
  ⟨⟨_, rfl⟩, rfl, rfl, rfl⟩

/-- A write and a read that have each waited one edge more than the bound, whatever the bounds are. -/
theorem witness_OverdueRequestIsRecorded :
    let s := { stateIn .rdWait 0 1 0x00A5 [Inputs.quiet] with
      channel := ⟨[⟨.write 1 [0xA5], Config.chWriteTimeout + 1⟩, ⟨.read 2, Config.chReadTimeout + 1⟩], []⟩ }
    (∃ t, step s = .next t) ∧
    (⟨.write 1 [0xA5], Config.chWriteTimeout + 1⟩ ∈ s.channel.pending ∧ Config.chWriteTimeout < Config.chWriteTimeout + 1) ∧
    (⟨.read 2, Config.chReadTimeout + 1⟩ ∈ s.channel.pending ∧ Config.chReadTimeout < Config.chReadTimeout + 1) :=
  ⟨⟨_, rfl⟩, ⟨by simp, by omega⟩, by simp, by omega⟩

theorem witness_FaultBitsAreKept :
    let s := { stateIn .idle 0 0 0 [resets] with faults := ⟨true, false, false, true⟩ }
    (∃ t, step s = .next t) ∧ s.faults.has .strayCompletion = true ∧ s.conforming :=
  ⟨⟨_, rfl⟩, rfl, rfl, rfl, rfl, rfl, rfl⟩

theorem witness_WrittenBytesAreTheFirstOfTheFrame :
    ∀ err ∈ [true, false],
      let s := { stateIn .wrWait 2 2 0x7FDF [wDone err 1] with channel := ⟨[⟨.write 2 [0xDF, 0x7F], 0⟩], []⟩ }
      (∃ t, step s = .next t) ∧ s.ChannelInStep ∧ s.consumesWrite = true ∧ s.inputs.wrDoneErr = err := by
  intro err h
  simp only [List.mem_cons, List.not_mem_nil, or_false] at h
  rcases h with rfl | rfl <;>
    exact ⟨⟨_, rfl⟩, (by decide : [ChannelRequest.write 2 [0xDF, 0x7F]] = [.write 2 (frameBytes 2 0x7FDF)]), rfl, rfl⟩

/-- GETFB's write is outstanding: the registers, the channel and the trace as the rules leave them. -/
def inWriteWait (env : List Inputs) : State :=
  { stateIn .wrWait 0 1 0x00A5 env with
    channel := ⟨[⟨.write 1 [0xA5], 0⟩], []⟩
    trace := [.command 0x00000, .request (.write 1 [0xA5])] }

theorem inWriteWait_inv (env : List Inputs) : (inWriteWait env).regs.Inv where
  fields := ⟨fun _ => rfl, fun _ _ => ⟨rfl, rfl⟩, fun _ _ => rfl⟩
  cleared := fun _ => ⟨rfl, rfl, rfl, rfl⟩
  request := fun _ => .inl ⟨rfl, rfl⟩
  getOnly := fun h => by rcases h with h | h <;> cases h
  status := fun h => by cases h

theorem inWriteWait_inStep (env : List Inputs) : (inWriteWait env).ChannelInStep :=
  (by decide : [ChannelRequest.write 1 [0xA5]] = [.write 1 (frameBytes 1 0x00A5)])

/-- GETFB and its write request are an allowed order of events. -/
theorem inWriteWait_replay :
    replay [.command 0x00000, .request (.write 1 [0xA5])] = some (.writeOut (.getfb false 0)) := by decide

/-- In WR_WAIT and in RD_WAIT, with a count above the request, and in WR_WAIT with a stray read count of 3 beside a full write. -/
theorem witness_InStepOnlyTheAwaitedCountIsRecorded :
    (∀ i ∈ [wDone false 3, { wDone false 1 with rdDoneValid := true, rdDoneCount := 3 }],
      (∃ t, step (inWriteWait [i]) = .next t) ∧ (inWriteWait [i]).ChannelInStep ∧ (inWriteWait [i]).regs.seq = .wrWait) ∧
    (let s := { stateIn .rdWait 0 1 0x00A5 [rDone false 3 0] with channel := ⟨[⟨.read 2, 0⟩], []⟩ }
     (∃ t, step s = .next t) ∧ s.ChannelInStep ∧ s.regs.seq = .rdWait) := by
  refine ⟨?_, ⟨_, rfl⟩, rfl, rfl⟩
  intro i hi
  simp only [List.mem_cons, List.not_mem_nil, or_false] at hi
  rcases hi with rfl | rfl <;> exact ⟨⟨_, rfl⟩, inWriteWait_inStep _, rfl⟩

/-- The clause on registers that meet the invariant. -/
theorem witness_ReadIsRequestedOnceAfterFullWrite_inv :
    let s := inWriteWait [wDone false 1]
    ∃ s', step s = .next s' ∧ s.regs.seq ≠ .rdReq ∧ s'.regs.seq = .rdReq ∧ s.regs.Inv :=
  ⟨_, rfl, by decide, rfl, inWriteWait_inv _⟩

theorem inWriteWait_refines (env : List Inputs) : (inWriteWait env).Refines :=
  ⟨.writeOut (.getfb false 0), inWriteWait_replay, rfl, rfl, rfl, rfl, rfl, rfl⟩

theorem inWriteWait_wireOk (env : List Inputs) : (inWriteWait env).WireOk where
  request := fun _ => .inl ⟨rfl, rfl⟩
  outstanding := by
    intro len bytes h
    simp only [inWriteWait, Channel.outstanding_mk, List.map_cons, List.map_nil, List.mem_cons, List.not_mem_nil, or_false, ChannelRequest.write.injEq] at h
    exact .inl (by simpa [opcGetFeedback] using h.2)
  wire := by simp [inWriteWait]

theorem witness_RegisterInvariantIsKept :
    (∃ t, step (inWriteWait [wDone false 1]) = .next t) ∧ (inWriteWait [wDone false 1]).regs.Inv :=
  ⟨⟨_, rfl⟩, inWriteWait_inv _⟩

theorem witness_NoValueOnFailure :
    let r : Regs := { Regs.reset with seq := .resp, opQ := 3, rspStatusQ := .illegalOp }
    r.Inv ∧ r.outputs.rspValid = true ∧ r.rspStatusQ ≠ .okValue := by
  refine ⟨⟨⟨fun _ => rfl, fun _ _ => ⟨rfl, rfl⟩, fun _ _ => rfl⟩, ?_, ?_, ?_, fun _ => rfl⟩, rfl, by decide⟩
  · rintro (h | h | h | h) <;> cases h
  · rintro (h | h) <;> cases h
  · rintro (h | h) <;> cases h

theorem witness_ClockLevelRefinesExchangeLevel :
    (∃ t, step (inWriteWait [wDone false 1]) = .next t) ∧ (inWriteWait [wDone false 1]).Refines :=
  ⟨⟨_, rfl⟩, inWriteWait_refines _⟩

/-- With a completion, and with a reset where no request is outstanding. -/
theorem witness_ChannelStaysInStep :
    ((∃ t, step (inWriteWait [wDone false 1]) = .next t) ∧ (inWriteWait [wDone false 1]).inputs.rst = false ∧
      (inWriteWait [wDone false 1]).ChannelInStep) ∧
    (let s := stateIn .resp 0 1 0x00A5 [resets]
     (∃ t, step s = .next t) ∧ s.regs.seq ≠ .wrWait ∧ s.regs.seq ≠ .rdWait ∧ s.ChannelInStep) :=
  ⟨⟨⟨_, rfl⟩, rfl, inWriteWait_inStep _⟩, ⟨_, rfl⟩, by decide, by decide, rfl⟩

/-- An abandoned read is older than the write awaited, and completes meanwhile. -/
theorem witness_AwaitedRequestIsOutstanding :
    let s := { stateIn .wrWait 0 1 0x00A5 [rDone false 2 0] with channel := ⟨[⟨.read 2, 5⟩, ⟨.write 1 [0xA5], 0⟩], []⟩ }
    (∃ t, step s = .next t) ∧ s.AwaitedOutstanding :=
  ⟨⟨_, rfl⟩, fun _ => (by decide : some (ChannelRequest.write 1 [0xA5]) = some (.write 1 (frameBytes 1 0x00A5))),
    fun h => by cases h⟩

theorem witness_OnlyLegalBytesReachTheWire :
    (∃ t, step (inWriteWait [wDone false 1]) = .next t) ∧ (inWriteWait [wDone false 1]).WireOk :=
  ⟨⟨_, rfl⟩, inWriteWait_wireOk _⟩

/-- With no write completion, and with a full one. -/
theorem witness_FullWritesKeepTheWireFramed :
    (∀ i ∈ [Inputs.quiet, wDone false 1], (∃ t, step (inWriteWait [i]) = .next t) ∧ (inWriteWait [i]).WireOk ∧
      (inWriteWait [i]).ChannelInStep ∧ Framed (inWriteWait [i]).channel.wire) ∧
    (inWriteWait [Inputs.quiet]).inputs.writeCompletion = none ∧ (inWriteWait [wDone false 1]).consumesWrite = true ∧
    (inWriteWait [wDone false 1]).inputs.writeCompletion = some (.count (inWriteWait [wDone false 1]).regs.lenQ) := by
  refine ⟨?_, rfl, rfl, rfl⟩
  intro i hi
  refine ⟨?_, inWriteWait_wireOk _, inWriteWait_inStep _, ⟨[], by simp, rfl⟩⟩
  simp only [List.mem_cons, List.not_mem_nil, or_false] at hi
  rcases hi with rfl | rfl <;> exact ⟨_, rfl⟩

/-- A service of the P1 exchange GETFB, Count(1), Count(2, [67, 07]), with these waits. -/
def service (waits : List Inputs) : Service where
  command := Inputs.presenting 0x00000
  writeReadyWait := waits
  writeReady := chReady
  writeDoneWait := waits
  writeDone := wDone false 1
  readReadyWait := waits
  readReady := chReady
  readDoneWait := waits
  readDone := rDone false 2 0x0767
  resultWait := waits
  takeResult := takes

theorem service_ok (waits : List Inputs) (h : ∀ i ∈ waits, i = Inputs.quiet) : (service waits).Ok where
  command := ⟨⟨rfl, rfl, rfl⟩, rfl⟩
  writeReadyWait := fun i hi => by rw [h i hi]; exact ⟨⟨rfl, rfl, rfl⟩, rfl⟩
  writeReady := ⟨⟨rfl, rfl, rfl⟩, rfl⟩
  writeDoneWait := fun i hi => by rw [h i hi]; exact ⟨⟨rfl, rfl, rfl⟩, rfl⟩
  writeDone := ⟨⟨rfl, rfl, rfl⟩, rfl⟩
  readReadyWait := fun i hi => by rw [h i hi]; exact ⟨⟨rfl, rfl, rfl⟩, rfl⟩
  readReady := ⟨⟨rfl, rfl, rfl⟩, rfl⟩
  readDoneWait := fun i hi => by rw [h i hi]; exact ⟨⟨rfl, rfl, rfl⟩, rfl⟩
  readDone := ⟨⟨rfl, rfl, rfl⟩, rfl⟩
  resultWait := fun i hi => by rw [h i hi]; exact ⟨⟨rfl, rfl, rfl⟩, rfl⟩
  takeResult := ⟨⟨rfl, rfl, rfl⟩, rfl⟩

theorem witness_ServedExchangeMatchesCommandRule :
    let v := service [Inputs.quiet]
    let s := stateIn .idle 0 0 0 (v.samples (exchange (.getfb false 0) (.count 1) (.twoBytes 0x67 0x07)).requests ++ [])
    s.regs.seq = .idle ∧ v.Ok ∧ v.writeDone.writeCompletion = some (.count 1) ∧
    v.readDone.readCompletion = some (.twoBytes 0x67 0x07) ∧ decodeWord v.command.commandWord = .getfb false 0 ∧
    s.env = v.samples (exchange (.getfb false 0) (.count 1) (.twoBytes 0x67 0x07)).requests ++ [] :=
  ⟨rfl, service_ok _ (by simp), rfl, rfl, by decide, rfl⟩

theorem witness_ImmediateExchangeCycleCounts :
    let v := service []
    let s := stateIn .idle 0 0 0 (v.samples (exchange (.getfb false 0) (.count 1) (.twoBytes 0x67 0x07)).requests ++ [])
    (s.regs.seq = .idle ∧ v.Ok ∧ v.immediate ∧ v.writeDone.writeCompletion = some (.count 1) ∧
      v.readDone.readCompletion = some (.twoBytes 0x67 0x07) ∧ decodeWord v.command.commandWord = .getfb false 0 ∧
      s.env = v.samples (exchange (.getfb false 0) (.count 1) (.twoBytes 0x67 0x07)).requests ++ []) ∧
    ∃ t, s.runsTo 1 t :=
  ⟨⟨rfl, service_ok _ (by simp), ⟨rfl, rfl, rfl, rfl, rfl⟩, rfl, rfl, by decide, rfl⟩, ⟨_, rfl⟩⟩

/-- Two IDLE states that differ in every register the rules may leave behind, in the channel and in the faults. -/
theorem witness_NoStateCrossesExchanges :
    let env := [Inputs.presenting 0x10000, chReady]
    let s := stateIn .idle 0 0 0 env
    let t := { stateIn .idle 2 2 0x7FDF env with channel := ⟨[], [0xDF, 0x7F]⟩, faults := ⟨true, false, false, false⟩, edge := 7 }
    s.regs.seq = .idle ∧ t.regs.seq = .idle ∧ s.env = t.env ∧ 1 < s.env.length ∧ s.commandTransfers = true ∧
    ∃ s', s.runsTo 2 s' := ⟨rfl, rfl, rfl, by decide, rfl, ⟨_, rfl⟩⟩

theorem witness_BlockWaitsUntilAnswered :
    let s := stateIn .wrWait 0 1 0x00A5 [Inputs.quiet, rDone false 2 0]
    2 ≤ s.env.length ∧ ∀ i ∈ s.env.take 2, i.undisturbed ∧ i.answers s.regs.seq = false := by
  refine ⟨by decide, ?_⟩
  intro i hi
  simp only [stateIn, List.take_succ_cons, List.take_nil, List.mem_cons, List.not_mem_nil, or_false] at hi
  rcases hi with rfl | rfl <;> exact ⟨⟨rfl, rfl, rfl⟩, rfl⟩

/-- A script whose first completion is within the bound, whatever the bound is. -/
theorem witness_ChannelBoundsEndTheWaits :
    (let s := stateIn .wrWait 0 1 0x00A5 (List.replicate (Config.chWriteTimeout + 1) (wDone false 1))
     s.regs.seq = .wrWait ∧ Config.chWriteTimeout < s.env.length ∧
      (∀ i ∈ s.env.take (Config.chWriteTimeout + 1), i.undisturbed) ∧
      ∃ i ∈ s.env.take (Config.chWriteTimeout + 1), i.wrDoneValid = true) ∧
    (let s := stateIn .rdWait 0 1 0x00A5 (List.replicate (Config.chReadTimeout + 1) (rDone false 2 0))
     s.regs.seq = .rdWait ∧ Config.chReadTimeout < s.env.length ∧
      (∀ i ∈ s.env.take (Config.chReadTimeout + 1), i.undisturbed) ∧
      ∃ i ∈ s.env.take (Config.chReadTimeout + 1), i.rdDoneValid = true) := by
  refine ⟨⟨rfl, by simp [stateIn], ?_, wDone false 1, by simp [stateIn], rfl⟩,
    ⟨rfl, by simp [stateIn], ?_, rDone false 2 0, by simp [stateIn], rfl⟩⟩ <;>
  · intro i hi
    have := List.eq_of_mem_replicate (List.mem_of_mem_take hi)
    subst this
    exact ⟨rfl, rfl, rfl⟩

/-- A script with no completion, one edge longer than the bound allows, whatever the bound is. -/
theorem witness_UnansweredRequestIsRecordedAfterItsBound :
    (let s := { stateIn .wrWait 0 1 0x00A5 (List.replicate (Config.chWriteTimeout + 2) Inputs.quiet) with
       channel := ⟨[⟨.write 1 (frameBytes 1 0x00A5), 0⟩], []⟩ }
     s.regs.seq = .wrWait ∧ s.channel.pending = [⟨s.regs.outputs.writeRequest, 0⟩] ∧ Config.chWriteTimeout + 1 < s.env.length ∧
      ∀ i ∈ s.env.take (Config.chWriteTimeout + 2), i.undisturbed ∧ i.wrDoneValid = false) ∧
    (let s := { stateIn .rdWait 0 1 0x00A5 (List.replicate (Config.chReadTimeout + 2) Inputs.quiet) with
       channel := ⟨[⟨.read 2, 0⟩], []⟩ }
     s.regs.seq = .rdWait ∧ s.channel.pending = [⟨.read 2, 0⟩] ∧ Config.chReadTimeout + 1 < s.env.length ∧
      ∀ i ∈ s.env.take (Config.chReadTimeout + 2), i.undisturbed ∧ i.rdDoneValid = false) := by
  refine ⟨⟨rfl, rfl, by simp [stateIn], ?_⟩, rfl, rfl, by simp [stateIn], ?_⟩ <;>
  · intro i hi
    have := List.eq_of_mem_replicate (List.mem_of_mem_take hi)
    subst this
    exact ⟨⟨rfl, rfl, rfl⟩, rfl⟩

theorem witness_EarlyCompletionIsIgnored :
    (let s := stateIn .wrReq 0 1 0x00A5 [{ wDone false 1 with wrReqReady := true }]
     (∃ t, step s = .next t) ∧ s.inputs.rst = false ∧ s.writeRequestTransfers = true ∧ s.inputs.wrDoneValid = true) ∧
    (let s := stateIn .rdReq 0 1 0x00A5 [{ rDone false 2 0 with rdReqReady := true }]
     (∃ t, step s = .next t) ∧ s.inputs.rst = false ∧ s.readRequestTransfers = true ∧ s.inputs.rdDoneValid = true) :=
  ⟨⟨⟨_, rfl⟩, rfl, rfl, rfl⟩, ⟨_, rfl⟩, rfl, rfl, rfl⟩

/-- The write completion of SETTG 1895, held high, on a sample that presents a command and takes everything. -/
def held (cw : CommandWord) : Inputs :=
  { Inputs.presenting cw with rspReady := true, wrReqReady := true, wrDoneValid := true, wrDoneCount := 2 }

/-- The next command is SETTG 1895, or SETTG.C 4095, the largest value in range. -/
theorem witness_HeldCompletionEndsTheNextSet :
    ∀ c ∈ [((0x20767 : CommandWord), Instr.settg 1895, Frame.mk 2 0x3BC7), (0x60FFF, .settgC 4095, ⟨2, 0x7FDF⟩)],
      let h := held c.1
      let s := stateIn .wrWait 2 2 0x3BC7 [h, h, h, h, h]
      s.regs.seq = .wrWait ∧ s.regs.opQ = 2 ∧ s.env = [h, h, h, h, h] ∧
      (∀ e ∈ [h, h, h, h, h], e.undisturbed ∧ e.writeCompletion = some (.count 2)) ∧
      h.rspReady = true ∧ h.cmdValid = true ∧ decodeWord h.commandWord = c.2.1 ∧ c.2.1.op = 2 ∧ frameOf c.2.1 = some c.2.2 ∧
      h.wrReqReady = true := by
  intro c hc
  simp only [List.mem_cons, List.not_mem_nil, or_false] at hc
  rcases hc with rfl | rfl <;>
  · refine ⟨rfl, rfl, rfl, ?_, rfl, rfl, by decide, rfl, by decide, rfl⟩
    intro e he
    simp only [List.mem_cons, List.not_mem_nil, or_false, or_self] at he
    subst he
    exact ⟨⟨rfl, rfl, rfl⟩, rfl⟩

/-- The abandoned write, with the next command a SETTG, a SETTG.C in range, and a GET. -/
theorem witness_AbandonedCompletionIsTakenByTheNextExchange_write :
    ∀ c ∈ [((0x20767 : CommandWord), Instr.settg 1895, Frame.mk 2 0x3BC7), (0x60FFF, .settgC 4095, ⟨2, 0x7FDF⟩),
        (0x10000, .gettg false 0, ⟨1, 0x00A3⟩)],
      let e := Inputs.presenting c.1
      let s := { stateIn .wrWait 0 1 0x00A5 [resets, e, chReady, wDone false 1] with channel := ⟨[⟨.write 1 [0xA5], 0⟩], []⟩ }
      s.regs.seq = .wrWait ∧ s.channel.outstanding = [.write 1 [0xA5]] ∧ s.env = [resets, e, chReady, wDone false 1] ∧
      resets.rst = true ∧ resets.otherAgent = false ∧ resets.channelClosed = false ∧
      (∀ x ∈ [e, chReady, wDone false 1], x.undisturbed) ∧ (∀ x ∈ [resets, e, chReady], x.wrDoneValid = false) ∧
      (∀ x ∈ [resets, e, chReady, wDone false 1], x.rdDoneValid = false) ∧
      e.cmdValid = true ∧ decodeWord e.commandWord = c.2.1 ∧ frameOf c.2.1 = some c.2.2 ∧ chReady.wrReqReady = true ∧
      (wDone false 1).writeCompletion = some (.count 1) := by
  intro c hc
  simp only [List.mem_cons, List.not_mem_nil, or_false] at hc
  rcases hc with rfl | rfl | rfl <;>
  · refine ⟨rfl, rfl, rfl, rfl, rfl, rfl, ?_, by simp [resets, Inputs.presenting, chReady, Inputs.quiet],
      by simp [resets, Inputs.presenting, chReady, Inputs.quiet, wDone], rfl, by decide, by decide, rfl, rfl⟩
    intro x hx
    simp only [List.mem_cons, List.not_mem_nil, or_false] at hx
    rcases hx with rfl | rfl | rfl <;> exact ⟨rfl, rfl, rfl⟩

/-- The abandoned read, with the next command GETTG. -/
theorem witness_AbandonedCompletionIsTakenByTheNextExchange_read :
    let e := Inputs.presenting 0x10000
    let env := [resets, e, chReady, wDone false 1, chReady, rDone false 2 0x0767]
    let s := { stateIn .rdWait 0 1 0x00A5 env with channel := ⟨[⟨.read 2, 0⟩], []⟩ }
    s.regs.seq = .rdWait ∧ s.channel.outstanding = [.read 2] ∧ s.env = env ∧
    resets.rst = true ∧ resets.otherAgent = false ∧ resets.channelClosed = false ∧
    (∀ x ∈ [e, chReady, wDone false 1, chReady, rDone false 2 0x0767], x.undisturbed) ∧
    (∀ x ∈ [resets, e, chReady, chReady, rDone false 2 0x0767], x.wrDoneValid = false) ∧
    (∀ x ∈ [resets, e, chReady, wDone false 1, chReady], x.rdDoneValid = false) ∧
    e.cmdValid = true ∧ decodeWord e.commandWord = .gettg false 0 ∧ (Instr.gettg false 0).op = 1 ∧ chReady.wrReqReady = true ∧
    (wDone false 1).writeCompletion = some (.count 1) ∧ chReady.rdReqReady = true ∧
    (rDone false 2 0x0767).readCompletion = some (.twoBytes 0x67 0x07) := by
  refine ⟨rfl, rfl, rfl, rfl, rfl, rfl, ?_, by simp [resets, Inputs.presenting, chReady, Inputs.quiet, rDone],
    by simp [resets, Inputs.presenting, chReady, Inputs.quiet, wDone], rfl, by decide, rfl, rfl, rfl, rfl, rfl⟩
  intro x hx
  simp only [List.mem_cons, List.not_mem_nil, or_false] at hx
  rcases hx with rfl | rfl | rfl | rfl | rfl <;> exact ⟨rfl, rfl, rfl⟩

end Sys2Proof.Tests
end

section
/-! How the recorded contract violations move at an edge (00_scope R11, 10_state R39). -/

namespace Sys2Proof.Machine

/-- A step records the violations of its own edge, whether the block resets or not: no edge of the block writes a fault bit. -/
theorem step_faults {s t : State} (h : step s = .next t) : t.faults = s.faultsEdge := by
  obtain ⟨-, rfl⟩ := step_inv h
  rfl

/-- The fault bits after an edge that records no violation are those before it. -/
theorem State.faultsEdge_of_conforming {s : State} (h : s.conforming) : s.faultsEdge = s.faults := by
  obtain ⟨hwithdraws, hwrite, hread, hcount, hoverdue⟩ := h
  simp only [State.faultsEdge, hwithdraws, hwrite, hread, hcount, hoverdue, Bool.or_false]

end Sys2Proof.Machine

namespace Sys2Proof.Proofs

open Sys2Proof.Machine

/-- Settles O42: a step's fault bits are the old ones joined with what its edge records, and a conforming edge records nothing. -/
theorem faultBitsAreKept : Obligations.FaultBitsAreKept := by
  intro s t hstep
  rw [step_faults hstep]
  exact ⟨s.faultsEdge_keeps, State.faultsEdge_of_conforming⟩

end Sys2Proof.Proofs
end

section
/-! The registers, the caller and the channel after a step, and what leaves the registers as they are. -/

namespace Sys2Proof.Machine

theorem step_regs {s t : State} (h : step s = .next t) : t.regs = s.nextRegs := by
  obtain ⟨-, rfl⟩ := step_inv h
  rfl

theorem step_caller {s t : State} (h : step s = .next t) : t.caller = s.callerEdge := by
  obtain ⟨-, rfl⟩ := step_inv h
  rfl

theorem step_env {s t : State} (h : step s = .next t) : t.env = s.env.tail := by
  obtain ⟨-, rfl⟩ := step_inv h
  rfl

theorem step_channel {s t : State} (h : step s = .next t) : t.channel = s.channelEdge := by
  obtain ⟨-, rfl⟩ := step_inv h
  rfl

/-! The four transfers, from the signals (10_state R23, R25, R26, R28). -/

theorem State.commandTransfers_iff (s : State) : s.commandTransfers = true ↔
    s.inputs.rst = false ∧ s.inputs.cmdValid = true ∧ s.regs.outputs.cmdReady = true := by
  simp only [State.commandTransfers, Bool.and_eq_true, Bool.not_eq_true', and_assoc]

theorem State.resultTransfers_iff (s : State) : s.resultTransfers = true ↔
    s.inputs.rst = false ∧ s.regs.outputs.rspValid = true ∧ s.inputs.rspReady = true := by
  simp only [State.resultTransfers, Bool.and_eq_true, Bool.not_eq_true', and_assoc]

theorem State.writeRequestTransfers_iff (s : State) : s.writeRequestTransfers = true ↔
    s.inputs.rst = false ∧ s.regs.outputs.wrReqValid = true ∧ s.inputs.wrReqReady = true := by
  simp only [State.writeRequestTransfers, Bool.and_eq_true, Bool.not_eq_true', and_assoc]

theorem State.readRequestTransfers_iff (s : State) : s.readRequestTransfers = true ↔
    s.inputs.rst = false ∧ s.regs.outputs.rdReqValid = true ∧ s.inputs.rdReqReady = true := by
  simp only [State.readRequestTransfers, Bool.and_eq_true, Bool.not_eq_true', and_assoc]

/-! Each valid and ready output names its state (R33). -/

@[simp] theorem Regs.outputs_cmdReady_iff (r : Regs) : r.outputs.cmdReady = true ↔ r.seq = .idle := by simp [Regs.outputs]
@[simp] theorem Regs.outputs_rspValid_iff (r : Regs) : r.outputs.rspValid = true ↔ r.seq = .resp := by simp [Regs.outputs]
@[simp] theorem Regs.outputs_wrReqValid_iff (r : Regs) : r.outputs.wrReqValid = true ↔ r.seq = .wrReq := by simp [Regs.outputs]
@[simp] theorem Regs.outputs_rdReqValid_iff (r : Regs) : r.outputs.rdReqValid = true ↔ r.seq = .rdReq := by simp [Regs.outputs]

/-- An edge without the answer the state waits for leaves the registers (70_reset R183). -/
theorem Regs.exchangeEdge_of_unanswered {r : Regs} {i : Inputs} (h : i.answers r.seq = false) : r.exchangeEdge i = r := by
  rcases r.exchangeEdge_cases i with e | ⟨hs, ha, -⟩ | ⟨hs, ha, -⟩ | ⟨hs, ha, -⟩ | ⟨hs, ha, -⟩ | ⟨hs, ha, -⟩
  · exact e
  all_goals simp [hs, Inputs.answers, ha] at h

/-- Where no command transfers, the registers move by the reset or by the exchange in flight alone. -/
theorem State.nextRegs_of_no_command {s : State} (h : s.commandTransfers = false) :
    s.nextRegs = if s.inputs.rst then Regs.reset else s.regs.exchangeEdge s.inputs := by
  rcases s.nextRegs_cases with ⟨hr, e⟩ | ⟨hr, hs, -, e⟩ | ⟨hr, hs, hv, -⟩ | ⟨hr, -, e⟩
  · simp [hr, e]
  · simp [hr, e, Regs.exchangeEdge, hs]
  · have := s.commandTransfers_iff.2 ⟨hr, hv, by simpa using hs⟩
    rw [h] at this
    contradiction
  · simp [hr, e]

/-- The registers hold at an edge that is no reset and lacks the answer their state waits for (R183). -/
theorem State.nextRegs_of_unanswered {s : State} (hr : s.inputs.rst = false) (h : s.inputs.answers s.regs.seq = false) :
    s.nextRegs = s.regs := by
  have hc : s.commandTransfers = false := by
    rw [Bool.eq_false_iff, Ne, s.commandTransfers_iff, Regs.outputs_cmdReady_iff]
    rintro ⟨-, hv, hs⟩
    simp [hs, Inputs.answers, hv] at h
  simp [State.nextRegs_of_no_command hc, hr, Regs.exchangeEdge_of_unanswered h]

/-! Where no launch premise is broken (70_reset R175, R180). -/

theorem State.brokenPremise_of_idle {s : State} (h : s.regs.seq = .idle) : s.brokenPremise = none := by
  simp [State.brokenPremise, Regs.inFlight, h]

theorem State.brokenPremise_of_undisturbed {s : State} (h : s.inputs.undisturbed) : s.brokenPremise = none := by
  obtain ⟨-, hother, hclosed⟩ := h
  simp [State.brokenPremise, hother, hclosed]

/-- An undisturbed edge without the answer moves the agents alone. -/
theorem step_of_unanswered {s : State} (hu : s.inputs.undisturbed) (h : s.inputs.answers s.regs.seq = false) :
    step s = .next (s.advance s) := by
  rw [step_eq s (State.brokenPremise_of_undisturbed hu), State.nextRegs_of_unanswered hu.1 h]

end Sys2Proof.Machine
end

section
/-! Runs of several steps (`State.runsTo`). -/

namespace Sys2Proof.Machine

@[simp] theorem State.runsTo_zero_iff {s t : State} : s.runsTo 0 t ↔ t = s := by
  simp only [State.runsTo, Host.Core.run]
  exact ⟨fun h => by injection h with h; exact h.symm, fun h => by rw [h]⟩

/-- A run of one step more is that step and the rest of the run. -/
theorem State.runsTo_succ_iff {s u : State} {k : Nat} : s.runsTo (k + 1) u ↔ ∃ t, step s = .next t ∧ t.runsTo k u := by
  refine ⟨fun h => ?_, fun ⟨t, ht, hu⟩ => State.runsTo_succ ht hu⟩
  simp only [State.runsTo, Host.Core.run] at h
  split at h
  case h_1 t ht => exact ⟨t, ht, h⟩
  all_goals cases h

/-- A run and one step after it. -/
theorem State.runsTo_snoc {k : Nat} {s t u : State} (h : s.runsTo k t) (hu : step t = .next u) : s.runsTo (k + 1) u := by
  induction k generalizing s with
  | zero =>
    rw [State.runsTo_zero_iff] at h
    subst h
    exact State.runsTo_succ_iff.2 ⟨u, hu, State.runsTo_zero_iff.2 rfl⟩
  | succ k ih =>
    obtain ⟨s', hs, h⟩ := State.runsTo_succ_iff.1 h
    exact State.runsTo_succ hs (ih h)

/-- A run has one end. -/
theorem State.runsTo_unique {s t t' : State} {k : Nat} (h : s.runsTo k t) (h' : s.runsTo k t') : t = t' := by
  unfold State.runsTo at h h'
  rw [h] at h'
  injection h'

/-- States with the same script, of which a sample is left, take the same sample. -/
theorem State.inputs_eq_of_env {s t : State} (h : s.env = t.env) (hne : s.env ≠ []) : s.inputs = t.inputs := by
  obtain ⟨i, rest, hi⟩ := List.exists_cons_of_ne_nil hne
  rw [s.inputs_cons i rest hi, t.inputs_cons i rest (h ▸ hi)]

end Sys2Proof.Machine
end

section
/-! The ports and the command's side: output functions, codes, transfers and the hold rule (10_state R23 to R33). -/

namespace Sys2Proof.Machine

/-- Each state has its own code (10_state R30). -/
theorem Seq.code_inj {q q' : Seq} : q.code = q'.code ↔ q = q' := by
  cases q <;> cases q' <;> decide

/-- The command word holds every command signal (30_encoding R71). -/
theorem commandWord_inj {i j : Inputs} (h : i.commandWord = j.commandWord) :
    i.cmdOp = j.cmdOp ∧ i.cmdChecked = j.cmdChecked ∧ i.cmdValue = j.cmdValue := by
  unfold Inputs.commandWord at h
  refine ⟨?_, ?_, ?_⟩
  · simpa using congrArg opField h
  · simpa using congrArg checkedField h
  · simpa using congrArg valueField h

/-- A command presented and not transferred is remembered (10_state R23). -/
theorem State.callerEdge_of_presented {s : State} (hv : s.inputs.cmdValid = true) (ht : s.commandTransfers = false) :
    s.callerEdge = ⟨some s.inputs.commandWord⟩ := by
  simp [State.callerEdge, hv, ht]

/-- The caller withdraws the command it presented where it presents none, or another (R23). -/
theorem State.withdrawsCommand_iff {s : State} {cw : CommandWord} (h : s.caller.presented = some cw) :
    s.withdrawsCommand = true ↔ (s.inputs.cmdValid = true → s.inputs.commandWord ≠ cw) := by
  simp [State.withdrawsCommand, h, imp_iff_not_or]

/-- The command signals are sampled by no edge of an exchange in flight (41_exchange R110). -/
theorem Regs.exchangeEdge_command_signals (r : Regs) (i : Inputs) (valid checked : Bool) (op : BitVec 2) (value : Half) :
    r.exchangeEdge { i with cmdValid := valid, cmdOp := op, cmdChecked := checked, cmdValue := value } = r.exchangeEdge i :=
  rfl

end Sys2Proof.Machine

namespace Sys2Proof.Proofs

open Sys2Proof.Machine

/-- Settles O37: where no command transfers only the reset and the exchange in flight move the registers, and the caller's edge
remembers the command that the next edge is held against. -/
theorem commandTransferAndHoldRule : Obligations.CommandTransferAndHoldRule := by
  refine ⟨State.commandTransfers_iff, ?_, ?_⟩
  · intro s i rest valid checked op value t t' quiet changed hq hc hstep hstep'
    rw [step_regs hstep, step_regs hstep', State.nextRegs_of_no_command hq, State.nextRegs_of_no_command hc]
    exact congrArg (if i.rst then Regs.reset else ·) (s.regs.exchangeEdge_command_signals i valid checked op value)
  · intro s s' s'' hstep hstep' hv ht hchanged
    have hp : s'.caller.presented = some s.inputs.commandWord := by
      rw [step_caller hstep, State.callerEdge_of_presented hv ht]
    have hw : s'.withdrawsCommand = true := by
      refine (State.withdrawsCommand_iff hp).2 fun hv' hword => ?_
      obtain ⟨hop, hchecked, hvalue⟩ := commandWord_inj hword
      simp [hv', hop, hchecked, hvalue] at hchanged
    simp [step_faults hstep', State.faultsEdge, hw]

/-- Settles O34: what is presented and not taken is a state without its answer, which leaves the registers and so the outputs. -/
theorem presentedOutputsHold : Obligations.PresentedOutputsHold := by
  refine ⟨fun s => ⟨s.resultTransfers_iff, s.writeRequestTransfers_iff, s.readRequestTransfers_iff⟩, ?_⟩
  intro s t hstep hr
  have hold : s.inputs.answers s.regs.seq = false → t.regs.outputs = s.regs.outputs := fun h => by
    rw [step_regs hstep, State.nextRegs_of_unanswered hr h]
  refine ⟨fun hv hn => hold ?_, fun hv hn => hold ?_, fun hv hn => hold ?_⟩
  · rw [(Regs.outputs_rspValid_iff _).1 hv]; exact hn
  · rw [(Regs.outputs_wrReqValid_iff _).1 hv]; exact hn
  · rw [(Regs.outputs_rdReqValid_iff _).1 hv]; exact hn

/-- Settles O35: the four handshake outputs name their states, and each state has its own code; the other outputs are registers. -/
theorem outputsAreFunctionsOfTheRegisters : Obligations.OutputsAreFunctionsOfTheRegisters := by
  intro r
  have hcode (q : Seq) : r.seq = q ↔ r.seq.code = q.code := Seq.code_inj.symm
  exact ⟨r.outputs_cmdReady_iff.trans (hcode .idle), r.outputs_rspValid_iff.trans (hcode .resp),
    r.outputs_wrReqValid_iff.trans (hcode .wrReq), r.outputs_rdReqValid_iff.trans (hcode .rdReq),
    rfl, rfl, rfl, rfl, rfl, rfl, rfl, rfl, rfl⟩

/-- Settles O36: the two code tables, and a status for each of the eight codes. -/
theorem stateAndStatusCodes : Obligations.StateAndStatusCodes := by
  refine ⟨rfl, rfl, fun c => ?_⟩
  have hmem : c ∈ [Status.okValue, .okAck, .writeIncomplete, .writeFailed, .readIncomplete, .readFailed, .valueRejected,
      .illegalOp].map Status.code := by revert c; decide
  obtain ⟨st, -, hst⟩ := List.mem_map.1 hmem
  exact ⟨st, hst⟩

end Sys2Proof.Proofs
end

section
/-! The invariants at the reset state (10_state R38, 70_reset R174). -/

namespace Sys2Proof.Machine

/-- The reset registers present no result and hold 0 in every result field. -/
theorem Regs.reset_inv : Regs.reset.Inv where
  fields := ⟨fun _ => rfl, fun _ _ => ⟨rfl, rfl⟩, fun _ _ => rfl⟩
  cleared := fun _ => ⟨rfl, rfl, rfl, rfl⟩
  request := by simp
  getOnly := by simp
  status := by simp

/-- The empty trace stands at the idle phase. -/
theorem State.reset_refines : State.reset.Refines := ⟨.idle, rfl, trivial⟩

theorem State.reset_wireOk : State.reset.WireOk where
  request := by simp
  outstanding := fun _ _ h => absurd h List.not_mem_nil
  wire := fun _ h => absurd h List.not_mem_nil

end Sys2Proof.Machine

namespace Sys2Proof.Proofs

open Sys2Proof.Machine

/-- Settles O45: the block is idle there, and the channel, the wire and the trace are empty. -/
theorem resetHasTheInvariants : Obligations.ResetHasTheInvariants :=
  ⟨Regs.reset_inv, State.reset_refines, rfl, ⟨by simp, by simp⟩, State.reset_wireOk⟩

end Sys2Proof.Proofs
end

section
/-! How long a request waits (10_state R39, 20_memory R55). -/

namespace Sys2Proof.Machine

/-- The overdue bit after an edge. -/
theorem State.faultsEdge_completionOverdue (s : State) :
    s.faultsEdge.completionOverdue = (s.faults.completionOverdue || s.overdue) := rfl

/-- The state in which the block waits for a request's completion (41_exchange R114, R116). -/
def ChannelRequest.waitState : ChannelRequest → Seq
  | .write _ _ => .wrWait
  | .read _ => .rdWait

/-- The block waits for `q`, the only request at the channel, which has waited `n` edges. -/
structure State.WaitsFor (s : State) (q : ChannelRequest) (n : Nat) : Prop where
  seq : s.regs.seq = q.waitState
  pending : s.channel.pending = [⟨q, n⟩]

/-- No request transfers while the block waits for one. -/
theorem State.WaitsFor.requestTransferred {s : State} {q : ChannelRequest} {n : Nat} (h : s.WaitsFor q n) :
    s.requestTransferred = none := by
  have hs := h.seq
  rcases s.requestTransferred_cases with e | ⟨e, -⟩ | ⟨e, -⟩
  · exact e
  all_goals rw [e] at hs; cases q <;> cases hs

/-- The request stays at the channel while its own completion stays away; a stray one of the other kind completes nothing. -/
theorem State.WaitsFor.channelCompletes_pending {s : State} {q : ChannelRequest} {n : Nat} (h : s.WaitsFor q n)
    (ha : s.inputs.answers s.regs.seq = false) : s.channelCompletes.pending = [⟨q, n⟩] := by
  have hp := h.pending
  rw [h.seq] at ha
  cases q with
  | write len bytes =>
    have hw : s.inputs.writeCompletion = none := by
      simpa [Inputs.writeCompletion, Inputs.answers, ChannelRequest.waitState] using ha
    simp only [State.channelCompletes, hw]
    split <;> simp [hp, ChannelRequest.isRead]
  | read max =>
    have hr : s.inputs.readCompletion = none := by
      simpa [Inputs.readCompletion, Inputs.answers, ChannelRequest.waitState] using ha
    have hw : ∀ w k, s.channel.completeWrite w k = s.channel := fun w k => by
      simp [Channel.completeWrite, Channel.outstanding, hp, ChannelRequest.isWrite]
    simp only [State.channelCompletes, hr, hw]
    cases s.inputs.writeCompletion <;> simp [hp]

/-- One more edge without the completion. -/
theorem State.WaitsFor.advance {s : State} {q : ChannelRequest} {n : Nat} (h : s.WaitsFor q n)
    (ha : s.inputs.answers s.regs.seq = false) : (s.advance s).WaitsFor q (n + 1) where
  seq := h.seq
  pending := by
    simp [State.channelEdge, h.requestTransferred, h.channelCompletes_pending ha]

/-- The request is overdue where it has waited longer than its bound. -/
theorem State.WaitsFor.overdue {s : State} {q : ChannelRequest} {n : Nat} (h : s.WaitsFor q n) :
    s.overdue = decide (q.timeout < n) := by
  simp [State.overdue, h.pending]

/-- Over `k` edges without its completion a request taken at the edge before them waits `k` edges, the registers hold, and the
overdue bit is set once `k` is more than one above the bound. -/
theorem State.WaitsFor.run {s : State} {q : ChannelRequest} (h : s.WaitsFor q 0) {k : Nat} (hk : k ≤ s.env.length)
    (hi : ∀ i ∈ s.env.take k, i.undisturbed ∧ i.answers s.regs.seq = false) :
    ∃ t, s.runsTo k t ∧ t.regs = s.regs ∧ t.env = s.env.drop k ∧ t.WaitsFor q k ∧
      t.faults.completionOverdue = (s.faults.completionOverdue || decide (q.timeout + 1 < k)) := by
  induction k with
  | zero => exact ⟨s, by simp, rfl, rfl, h, by simp⟩
  | succ k ih =>
    obtain ⟨t, hrun, hregs, henv, hwait, hbit⟩ :=
      ih (by omega) fun i hm => hi i ((List.take_sublist_take_left (by omega)).subset hm)
    have hin : t.inputs = s.env[k] := t.inputs_cons _ _ (henv.trans (List.drop_eq_getElem_cons hk))
    obtain ⟨hu, ha⟩ := hi t.inputs (hin ▸ List.mem_take_iff_getElem.2 ⟨k, by omega, rfl⟩)
    rw [← hregs] at ha
    refine ⟨t.advance t, State.runsTo_snoc hrun (step_of_unanswered hu ha), hregs, ?_, hwait.advance ha, ?_⟩
    · simp [henv]
    · have hor : (decide (q.timeout + 1 < k) || decide (q.timeout < k)) = decide (q.timeout + 1 < k + 1) := by
        rw [← Bool.decide_or, decide_eq_decide]
        omega
      rw [State.advance_faults, State.faultsEdge_completionOverdue, hbit, hwait.overdue, Bool.or_assoc, hor]

/-- A request that is never answered is recorded two edges past its bound, and not before. -/
theorem State.WaitsFor.recorded_after_bound {s : State} {q : ChannelRequest} (h : s.WaitsFor q 0)
    (hk : q.timeout + 1 < s.env.length)
    (hi : ∀ i ∈ s.env.take (q.timeout + 2), i.undisturbed ∧ i.answers q.waitState = false) :
    (∃ t, s.runsTo (q.timeout + 2) t ∧ t.regs = s.regs ∧ t.faults.completionOverdue = true) ∧
    ∀ k t, k ≤ q.timeout + 1 → s.runsTo k t → t.faults.completionOverdue = s.faults.completionOverdue := by
  rw [← h.seq] at hi
  constructor
  · obtain ⟨t, hrun, hregs, -, -, hbit⟩ := h.run (k := q.timeout + 2) hk hi
    exact ⟨t, hrun, hregs, by simp [hbit]⟩
  · intro k t hle hrun
    obtain ⟨t', hrun', -, -, -, hbit⟩ :=
      h.run (k := k) (by omega) fun i hm => hi i ((List.take_sublist_take_left (by omega)).subset hm)
    have hnot : ¬ q.timeout + 1 < k := by omega
    rw [State.runsTo_unique hrun hrun', hbit]
    simp [hnot]

end Sys2Proof.Machine

namespace Sys2Proof.Proofs

open Sys2Proof.Machine

/-- Settles O41: a pending request waits one edge more or is just taken, and the bit joins what is overdue at the edge. -/
theorem overdueRequestIsRecorded : Obligations.OverdueRequestIsRecorded := by
  intro s t hstep
  have hbit : t.faults.completionOverdue = true ↔
      s.faults.completionOverdue = true ∨ ∃ p ∈ s.channel.pending, p.request.timeout < p.waited := by
    rw [step_faults hstep, State.faultsEdge_completionOverdue, Bool.or_eq_true, State.overdue_iff]
  refine ⟨fun p hp => ?_, ?_, ?_, hbit.1⟩
  · rw [step_channel hstep] at hp
    exact State.mem_channelEdge_pending hp
  · rintro ⟨len, bytes, n, hmem, hlate⟩
    exact hbit.2 (.inr ⟨_, hmem, hlate⟩)
  · rintro ⟨max, n, hmem, hlate⟩
    exact hbit.2 (.inr ⟨_, hmem, hlate⟩)

/-- Settles O57: one argument for the two kinds of request. -/
theorem unansweredRequestIsRecordedAfterItsBound : Obligations.UnansweredRequestIsRecordedAfterItsBound := by
  refine ⟨fun s hseq hpending hlen hscript => ?_, fun s hseq hpending hlen hscript => ?_⟩
  · have hwait : s.WaitsFor s.regs.outputs.writeRequest 0 := ⟨hseq, hpending⟩
    exact hwait.recorded_after_bound hlen hscript
  · have hwait : s.WaitsFor (.read 2) 0 := ⟨hseq, hpending⟩
    exact hwait.recorded_after_bound hlen hscript

end Sys2Proof.Proofs
end

section
/-! No state crosses exchanges (10_state R37): two runs over one script, from registers that differ in an unpresented status alone. -/

namespace Sys2Proof.Machine

/-- Registers of one exchange are equal but for `rsp_status_q`, and wholly equal where a result is presented. -/
theorem Regs.sameExchange_iff (r r' : Regs) : r.SameExchange r' ↔
    r' = { r with rspStatusQ := r'.rspStatusQ } ∧ (r.seq = .resp → r' = r) := by
  constructor
  · rintro ⟨hseq, hop, hlen, hframe, hvalue, hexpected, hactual, hcause, hstatus⟩
    cases r
    cases r'
    simp_all
  · rintro ⟨e, hresp⟩
    rw [e]
    exact ⟨rfl, rfl, rfl, rfl, rfl, rfl, rfl, rfl, fun h => by rw [hresp h]⟩

theorem Regs.SameExchange.refl (r : Regs) : r.SameExchange r :=
  ⟨rfl, rfl, rfl, rfl, rfl, rfl, rfl, rfl, fun _ => rfl⟩

/-- Acceptance leaves nothing of the registers before it but an unpresented status (41_exchange R111, R112). -/
theorem acceptedRegs_sameExchange (i : Instr) (r r' : Regs) : (acceptedRegs i r).SameExchange (acceptedRegs i r') := by
  have hwrite (op : BitVec 2) (f : Frame) : ((r.accept op).startWrite f).SameExchange ((r'.accept op).startWrite f) :=
    ⟨rfl, rfl, rfl, rfl, rfl, rfl, rfl, rfl, fun h => by cases h⟩
  have hend (op : BitVec 2) (st : Status) : ((r.accept op).endAtAcceptance st).SameExchange ((r'.accept op).endAtAcceptance st) :=
    ⟨rfl, rfl, rfl, rfl, rfl, rfl, rfl, rfl, fun _ => rfl⟩
  cases i with
  | getfb _ _ => exact hwrite 0 encodeGetFeedback
  | gettg _ _ => exact hwrite 1 encodeGetTarget
  | settg v => exact hwrite 2 (encodeSetTarget v)
  | settgC v =>
    by_cases hv : inRange v
    · simpa [acceptedRegs, hv] using hwrite 2 (encodeSetTarget v)
    · simpa [acceptedRegs, hv] using hend 2 .valueRejected
  | op3 _ _ => exact hend 3 .illegalOp

/-- A status that is not presented matters to no edge of the exchange: the edge keeps it, or writes its own (R110 to R117). -/
theorem Regs.exchangeEdge_of_status {r : Regs} (i : Inputs) (st : Status) (h : r.seq ≠ .resp) :
    (r.exchangeEdge i).SameExchange ({ r with rspStatusQ := st }.exchangeEdge i) := by
  have hkeep (q : Regs) (hq : q.seq ≠ .resp) : q.SameExchange { q with rspStatusQ := st } :=
    ⟨rfl, rfl, rfl, rfl, rfl, rfl, rfl, rfl, fun hresp => absurd hresp hq⟩
  have hmove (q : Seq) (hq : q ≠ .resp) : ({ r with seq := q } : Regs).SameExchange { r with seq := q, rspStatusQ := st } :=
    hkeep { r with seq := q } hq
  cases hs : r.seq with
  | idle => simpa only [Regs.exchangeEdge, hs] using hkeep r h
  | wrReq =>
    simp only [Regs.exchangeEdge, hs, Regs.writeRequestEdge]
    split
    · exact hmove .wrWait (by simp)
    · simpa only [hs] using hkeep r h
  | wrWait =>
    simp only [Regs.exchangeEdge, hs, Regs.writeWaitEdge, Regs.writeDone]
    split
    · split
      · exact .refl _
      · split
        · exact .refl _
        · split
          · exact .refl _
          · exact hmove .rdReq (by simp)
    · simpa only [hs] using hkeep r h
  | rdReq =>
    simp only [Regs.exchangeEdge, hs, Regs.readRequestEdge]
    split
    · exact hmove .rdWait (by simp)
    · simpa only [hs] using hkeep r h
  | rdWait =>
    simp only [Regs.exchangeEdge, hs, Regs.readWaitEdge, Regs.readDone]
    split
    · split
      · exact .refl _
      · split <;> exact .refl _
    · simpa only [hs] using hkeep r h
  | resp => exact absurd hs h

theorem Regs.SameExchange.exchangeEdge {r r' : Regs} (h : r.SameExchange r') (i : Inputs) :
    (r.exchangeEdge i).SameExchange (r'.exchangeEdge i) := by
  obtain ⟨e, hresp⟩ := (Regs.sameExchange_iff r r').1 h
  by_cases hs : r.seq = .resp
  · rw [hresp hs]
    exact .refl _
  · rw [e]
    exact Regs.exchangeEdge_of_status i _ hs

variable {s t s' : State}

/-- The block's edge keeps registers of one exchange so. -/
theorem Regs.SameExchange.nextRegs (h : s.regs.SameExchange t.regs) (hin : s.inputs = t.inputs) :
    s.nextRegs.SameExchange t.nextRegs := by
  unfold State.nextRegs
  rw [hin, h.seq]
  split
  · exact .refl _
  · split
    · split
      · exact acceptedRegs_sameExchange _ _ _
      · exact h
    · exact h.exchangeEdge _

/-- At the ports an unpresented status is not seen: the result leaves in RESP alone (10_state R25). -/
theorem Regs.SameExchange.portEvent (h : s.regs.SameExchange t.regs) (hin : s.inputs = t.inputs) :
    s.portEvent = t.portEvent := by
  have hcommand : s.commandTransfers = t.commandTransfers := by
    simp only [State.commandTransfers, Regs.outputs, hin, h.seq]
  have hwrite : s.writeRequestTransfers = t.writeRequestTransfers := by
    simp only [State.writeRequestTransfers, Regs.outputs, hin, h.seq]
  have hwriteDone : s.consumesWrite = t.consumesWrite := by simp only [State.consumesWrite, hin, h.seq]
  have hread : s.readRequestTransfers = t.readRequestTransfers := by
    simp only [State.readRequestTransfers, Regs.outputs, hin, h.seq]
  have hreadDone : s.consumesRead = t.consumesRead := by simp only [State.consumesRead, hin, h.seq]
  have hresult : s.resultTransfers = t.resultTransfers := by
    simp only [State.resultTransfers, Regs.outputs, hin, h.seq]
  have hwriteRequest : s.regs.outputs.writeRequest = t.regs.outputs.writeRequest := by
    simp only [Regs.outputs, Outputs.writeRequest, h.lenQ, h.frameQ]
  have hreadRequest : s.regs.outputs.readRequest = t.regs.outputs.readRequest := rfl
  unfold State.portEvent
  rw [hcommand, hwrite, hwriteDone, hread, hreadDone, hresult, hwriteRequest, hreadRequest, hin, h.opQ]
  by_cases hs : s.regs.seq = .resp
  · rw [((Regs.sameExchange_iff s.regs t.regs).1 h).2 hs]
  · have hno : t.resultTransfers = false := by simp [State.resultTransfers, Regs.outputs, h.seq ▸ hs]
    simp only [hno, Bool.false_eq_true, if_false]

theorem Regs.SameExchange.brokenPremise (h : s.regs.SameExchange t.regs) (hin : s.inputs = t.inputs) :
    s.brokenPremise = t.brokenPremise := by
  unfold State.brokenPremise Regs.inFlight
  rw [hin, h.seq]

/-- The port event of the edge at which a command transfers. -/
theorem State.portEvent_of_command (h : s.commandTransfers = true) : s.portEvent = some (.command s.inputs.commandWord) := by
  simp [State.portEvent, h, (s.commandTransfers_iff.1 h).1]

/-- The registers after the edge at which a command transfers. -/
theorem State.nextRegs_of_command (h : s.commandTransfers = true) :
    s.nextRegs = acceptedRegs (decodeWord s.inputs.commandWord) s.regs := by
  obtain ⟨hr, hv, hidle⟩ := s.commandTransfers_iff.1 h
  simp [State.nextRegs, hr, hv, s.regs.outputs_cmdReady_iff.1 hidle]

/-- `t` keeps up with `s`: the same script ahead, registers of one exchange, and the same port events since `s₀` and `t₀`. -/
structure State.KeepsUp (s₀ t₀ s t : State) : Prop where
  env : s.env = t.env
  regs : s.regs.SameExchange t.regs
  events : ∃ events, s.trace = s₀.trace ++ events ∧ t.trace = t₀.trace ++ events

theorem State.KeepsUp.start (henv : s.env = t.env) (hregs : s.regs.SameExchange t.regs) : State.KeepsUp s t s t :=
  ⟨henv, hregs, [], by simp, by simp⟩

theorem State.KeepsUp.trans {s₀ t₀ s₁ t₁ s₂ t₂ : State} (h : State.KeepsUp s₀ t₀ s₁ t₁) (h' : State.KeepsUp s₁ t₁ s₂ t₂) :
    State.KeepsUp s₀ t₀ s₂ t₂ := by
  obtain ⟨-, -, events, hs, ht⟩ := h
  obtain ⟨henv, hregs, events', hs', ht'⟩ := h'
  exact ⟨henv, hregs, events ++ events', by rw [hs', hs, List.append_assoc], by rw [ht', ht, List.append_assoc]⟩

/-- Two edges with the same port event, after which the registers are of one exchange. -/
theorem State.keepsUp_step (henv : s.env = t.env) (hpremise : s.brokenPremise = t.brokenPremise)
    (hregs : s.nextRegs.SameExchange t.nextRegs) (hevent : s.portEvent = t.portEvent) (hstep : step s = .next s') :
    ∃ t', step t = .next t' ∧ State.KeepsUp s t s' t' := by
  obtain ⟨hp, rfl⟩ := step_inv hstep
  exact ⟨_, step_eq t (hpremise ▸ hp), congrArg List.tail henv, hregs, s.portEvent.toList, rfl, by rw [hevent]; rfl⟩

/-- Within the script, a run from registers of one exchange is kept up with. -/
theorem State.keepsUp_run {n : Nat} (henv : s.env = t.env) (hn : n ≤ s.env.length) (hregs : s.regs.SameExchange t.regs)
    (hrun : s.runsTo n s') : ∃ t', t.runsTo n t' ∧ State.KeepsUp s t s' t' := by
  induction n generalizing s t with
  | zero =>
    obtain rfl := State.runsTo_zero_iff.1 hrun
    exact ⟨t, by simp, .start henv hregs⟩
  | succ n ih =>
    obtain ⟨s₁, hstep, hrun⟩ := State.runsTo_succ_iff.1 hrun
    have hin : s.inputs = t.inputs := State.inputs_eq_of_env henv (List.ne_nil_of_length_pos (by omega))
    obtain ⟨t₁, hstep', hup⟩ := State.keepsUp_step henv (hregs.brokenPremise hin) (hregs.nextRegs hin) (hregs.portEvent hin) hstep
    have hn' : n ≤ s₁.env.length := by
      rw [step_env hstep, List.length_tail]
      omega
    obtain ⟨t', hrun', hup'⟩ := ih hup.env hn' hup.regs hrun
    exact ⟨t', State.runsTo_succ hstep' hrun', hup.trans hup'⟩

end Sys2Proof.Machine

namespace Sys2Proof.Proofs

open Sys2Proof.Machine

/-- Settles O54: acceptance leaves registers of one exchange whatever stood there before, and the rest of the run keeps them so. -/
theorem noStateCrossesExchanges : Obligations.NoStateCrossesExchanges := by
  intro n s t s' hs ht henv hn hcommand hrun
  obtain ⟨s₁, hstep, hrun⟩ := State.runsTo_succ_iff.1 hrun
  have hin : s.inputs = t.inputs := State.inputs_eq_of_env henv (List.ne_nil_of_length_pos (by omega))
  have hcommand' : t.commandTransfers = true := by
    rw [State.commandTransfers_iff, Regs.outputs_cmdReady_iff] at hcommand ⊢
    exact ⟨hin ▸ hcommand.1, hin ▸ hcommand.2.1, ht⟩
  have hregs : s.nextRegs.SameExchange t.nextRegs := by
    rw [State.nextRegs_of_command hcommand, State.nextRegs_of_command hcommand', hin]
    exact acceptedRegs_sameExchange _ _ _
  obtain ⟨t₁, hstep', hup⟩ := State.keepsUp_step henv
    (by rw [State.brokenPremise_of_idle hs, State.brokenPremise_of_idle ht]) hregs
    (by rw [State.portEvent_of_command hcommand, State.portEvent_of_command hcommand', hin]) hstep
  have hn' : n ≤ s₁.env.length := by
    rw [step_env hstep, List.length_tail]
    omega
  obtain ⟨t', hrun', hup'⟩ := State.keepsUp_run hup.env hn' hup.regs hrun
  obtain ⟨-, hsame, hevents⟩ := hup.trans hup'
  exact ⟨t', State.runsTo_succ hstep' hrun', hsame, hevents⟩

end Sys2Proof.Proofs
end

section
/-! A run that is answered leaves the state it waits in (20_memory R55, 70_reset R183). -/

namespace Sys2Proof.Machine

/-- Outside IDLE an edge without reset is the edge of the exchange in flight. -/
theorem State.nextRegs_of_busy {s : State} (hr : s.inputs.rst = false) (h : s.regs.seq ≠ .idle) :
    s.nextRegs = s.regs.exchangeEdge s.inputs := by
  simp [State.nextRegs, hr, h]

/-- An answer among the next `n` samples of the script, none of them disturbed, is reached in fewer than `n` edges with the
registers as they were. -/
theorem State.run_to_answer {s : State} {n : Nat} (hu : ∀ i ∈ s.env.take n, i.undisturbed)
    (ha : ∃ i ∈ s.env.take n, i.answers s.regs.seq = true) :
    ∃ k t, k < n ∧ s.runsTo k t ∧ t.regs = s.regs ∧ t.inputs.undisturbed ∧ t.inputs.answers s.regs.seq = true := by
  induction n generalizing s with
  | zero => simp at ha
  | succ n ih =>
    obtain ⟨i, rest, henv⟩ : ∃ i rest, s.env = i :: rest :=
      List.exists_cons_of_ne_nil fun hnil => by simp [hnil] at ha
    have hin : s.inputs = i := s.inputs_cons i rest henv
    rw [henv, List.take_succ_cons] at hu ha
    have hui : s.inputs.undisturbed := hin ▸ hu i List.mem_cons_self
    cases hi : s.inputs.answers s.regs.seq with
    | true => exact ⟨0, s, n.succ_pos, by simp, rfl, hui, hi⟩
    | false =>
      have htail : (s.advance s).env = rest := by simp [henv]
      have ha' : ∃ j ∈ rest.take n, j.answers s.regs.seq = true := by
        obtain ⟨j, hj, hja⟩ := ha
        rcases List.mem_cons.1 hj with rfl | hj
        · rw [hin, hja] at hi; contradiction
        · exact ⟨j, hj, hja⟩
      obtain ⟨k, t, hk, hrun, ht⟩ :=
        ih (s := s.advance s) (by rw [htail]; exact fun j hj => hu j (List.mem_cons_of_mem i hj)) (by rw [htail]; exact ha')
      exact ⟨k + 1, t, Nat.succ_lt_succ hk, State.runsTo_succ (step_of_unanswered hui hi) hrun, ht⟩

/-- Such an answer is taken within `n` edges: outside IDLE the registers are then those after the answered edge. -/
theorem State.run_past_answer {s : State} {n : Nat} (hs : s.regs.seq ≠ .idle) (hu : ∀ i ∈ s.env.take n, i.undisturbed)
    (ha : ∃ i ∈ s.env.take n, i.answers s.regs.seq = true) :
    ∃ k t i, k ≤ n ∧ s.runsTo k t ∧ i.answers s.regs.seq = true ∧ t.regs = s.regs.exchangeEdge i := by
  obtain ⟨k, t, hk, hrun, hregs, hui, hi⟩ := State.run_to_answer hu ha
  refine ⟨k + 1, _, t.inputs, hk, State.runsTo_snoc hrun (step_eq t (State.brokenPremise_of_undisturbed hui)), hi, ?_⟩
  rw [State.advance_regs, State.nextRegs_of_busy hui.1 (hregs ▸ hs), hregs]

/-! Where a completion takes the block (41_exchange R115, R117). -/

theorem Regs.exchangeEdge_of_writeDone {r : Regs} {i : Inputs} (hs : r.seq = .wrWait) (hv : i.wrDoneValid = true) :
    r.exchangeEdge i = r.writeDone i := by
  simp [Regs.exchangeEdge, hs, Regs.writeWaitEdge, hv]

theorem Regs.exchangeEdge_of_readDone {r : Regs} {i : Inputs} (hs : r.seq = .rdWait) (hv : i.rdDoneValid = true) :
    r.exchangeEdge i = r.readDone i := by
  simp [Regs.exchangeEdge, hs, Regs.readWaitEdge, hv]

theorem Regs.writeDone_seq (r : Regs) (i : Inputs) : (r.writeDone i).seq = .resp ∨ (r.writeDone i).seq = .rdReq := by
  rcases r.writeDone_cases i with ⟨-, e⟩ | ⟨-, -, e⟩ | ⟨-, -, -, e⟩ | ⟨-, -, -, e⟩ <;> simp [e]

theorem Regs.readDone_seq (r : Regs) (i : Inputs) : (r.readDone i).seq = .resp := by
  rcases r.readDone_cases i with ⟨-, e⟩ | ⟨-, -, e⟩ | ⟨-, -, e⟩ <;> simp [e]

end Sys2Proof.Machine

namespace Sys2Proof.Proofs

open Sys2Proof.Machine

/-- Settles O56: the registers hold up to the completion, and the edge that takes it leaves the waiting state. -/
theorem channelBoundsEndTheWaits : Obligations.ChannelBoundsEndTheWaits := by
  refine ⟨fun s hs _ hu ha => ?_, fun s hs _ hu ha => ?_⟩
  · obtain ⟨k, t, i, hk, hrun, hi, hregs⟩ := State.run_past_answer (by simp [hs]) hu (by rw [hs]; exact ha)
    rw [hs] at hi
    rw [Regs.exchangeEdge_of_writeDone hs hi] at hregs
    exact ⟨k, t, hk, hrun, hregs ▸ s.regs.writeDone_seq i⟩
  · obtain ⟨k, t, i, hk, hrun, hi, hregs⟩ := State.run_past_answer (by simp [hs]) hu (by rw [hs]; exact ha)
    rw [hs] at hi
    rw [Regs.exchangeEdge_of_readDone hs hi] at hregs
    exact ⟨k, t, hk, hrun, hregs ▸ s.regs.readDone_seq i⟩

end Sys2Proof.Proofs
end

section
/-! Which completions are recorded: counts above a request, and completions of no request (20_memory R53, R54). -/

namespace Sys2Proof.Machine

theorem ChannelRequest.isWrite_iff {q : ChannelRequest} : q.isWrite = true ↔ ∃ len bytes, q = .write len bytes := by
  cases q <;> simp [ChannelRequest.isWrite]

theorem ChannelRequest.isRead_iff {q : ChannelRequest} : q.isRead = true ↔ ∃ max, q = .read max := by
  cases q <;> simp [ChannelRequest.isRead]

/-- The block consumes a completion in the state that waits for it alone, and at no reset edge (41_exchange R114, R116). -/
theorem State.consumesWrite_iff (s : State) : s.consumesWrite = true ↔
    s.inputs.rst = false ∧ s.regs.seq = .wrWait ∧ s.inputs.wrDoneValid = true := by
  simp only [State.consumesWrite, Bool.and_eq_true, Bool.not_eq_true', beq_iff_eq, and_assoc]

theorem State.consumesRead_iff (s : State) : s.consumesRead = true ↔
    s.inputs.rst = false ∧ s.regs.seq = .rdWait ∧ s.inputs.rdDoneValid = true := by
  simp only [State.consumesRead, Bool.and_eq_true, Bool.not_eq_true', beq_iff_eq, and_assoc]

/-- The only count above a read's length (20_memory R54). -/
theorem rspLen_lt_toNat_iff (k : BitVec 2) : rspLen.toNat < k.toNat ↔ k = 3 := by
  revert k; decide

/-- A count is above its request by the channel's request, or by the one the block takes the completion for. -/
theorem State.overCount_iff (s : State) : s.overCount = true ↔
    s.writeOverCount = true ∨ s.readOverCount = true ∨
    (s.consumesWrite = true ∧ s.inputs.wrDoneErr = false ∧ s.regs.lenQ.toNat < s.inputs.wrDoneCount.toNat) ∨
    (s.consumesRead = true ∧ s.inputs.rdDoneErr = false ∧ s.inputs.rdDoneCount = 3) := by
  simp only [State.overCount, Bool.or_eq_true, Bool.and_eq_true, Bool.not_eq_true', decide_eq_true_eq, gt_iff_lt,
    rspLen_lt_toNat_iff, and_assoc, or_assoc]

/-- The count bit after a step. -/
theorem step_countOverRequest {s t : State} (h : step s = .next t) :
    t.faults.countOverRequest = true ↔ s.faults.countOverRequest = true ∨ s.overCount = true := by
  rw [step_faults h, State.faultsEdge, Bool.or_eq_true]

/-- With a request of its kind outstanding, a completion is of an outstanding one. -/
theorem State.find?_completable {s : State} {p : ChannelRequest → Bool} (h : ∃ q ∈ s.channel.outstanding, p q = true) :
    ∃ r ∈ s.channel.outstanding, p r = true ∧ s.completable.find? p = some r := by
  obtain ⟨r, hr⟩ := Option.isSome_iff_exists.1 (List.find?_isSome.2 h)
  exact ⟨r, List.mem_of_find?_eq_some hr, List.find?_some hr, by simp [State.completable, hr]⟩

/-- A write count above every outstanding write, and there is one, is above its request. -/
theorem State.writeOverCount_of_outstanding {s : State} (hv : s.inputs.wrDoneValid = true) (he : s.inputs.wrDoneErr = false)
    (hex : ∃ len bytes, .write len bytes ∈ s.channel.outstanding)
    (hall : ∀ len bytes, .write len bytes ∈ s.channel.outstanding → len.toNat < s.inputs.wrDoneCount.toNat) :
    s.writeOverCount = true := by
  obtain ⟨len, bytes, hmem⟩ := hex
  obtain ⟨r, hr, hw, hfind⟩ := State.find?_completable (p := ChannelRequest.isWrite) ⟨_, hmem, rfl⟩
  obtain ⟨len, bytes, rfl⟩ := ChannelRequest.isWrite_iff.1 hw
  exact s.writeOverCount_iff.2 ⟨hv, he, _, hfind, hall len bytes hr⟩

/-- A read count above every outstanding read, and there is one, is above its request. -/
theorem State.readOverCount_of_outstanding {s : State} (hv : s.inputs.rdDoneValid = true) (he : s.inputs.rdDoneErr = false)
    (hex : ∃ max, .read max ∈ s.channel.outstanding)
    (hall : ∀ max, .read max ∈ s.channel.outstanding → max.toNat < s.inputs.rdDoneCount.toNat) :
    s.readOverCount = true := by
  obtain ⟨max, hmem⟩ := hex
  obtain ⟨r, hr, hread, hfind⟩ := State.find?_completable (p := ChannelRequest.isRead) ⟨_, hmem, rfl⟩
  obtain ⟨max, rfl⟩ := ChannelRequest.isRead_iff.1 hread
  exact s.readOverCount_iff.2 ⟨hv, he, _, hfind, hall max hr⟩

/-- While the block waits for a write that alone is outstanding, only the count of that write's completion can be above its
request: no read is outstanding, and none is consumed. -/
theorem State.overCount_iff_of_write_awaited {s : State} (hs : s.regs.seq = .wrWait) {bytes : List Byte}
    (ho : s.channel.outstanding = [.write s.regs.lenQ bytes]) :
    s.overCount = true ↔ s.inputs.wrDoneValid = true ∧ s.inputs.wrDoneErr = false ∧
      s.regs.lenQ.toNat < s.inputs.wrDoneCount.toNat := by
  have hwrite : s.writeOverCount = true ↔ s.inputs.wrDoneValid = true ∧ s.inputs.wrDoneErr = false ∧
      s.regs.lenQ.toNat < s.inputs.wrDoneCount.toNat := by
    simp [State.writeOverCount_iff, State.completable_of_waiting (.inl hs), ho, ChannelRequest.isWrite,
      ChannelRequest.byteCount]
  have hread : ¬ s.readOverCount = true := by
    simp [State.readOverCount_iff, State.completable_of_waiting (.inl hs), ho, ChannelRequest.isRead]
  have hconsumed : ¬ s.consumesRead = true := by simp [State.consumesRead_iff, hs]
  rw [State.overCount_iff, hwrite, State.consumesWrite_iff]
  tauto

/-- While the block waits for a read that alone is outstanding, only the count of that read's completion can be above its
request. -/
theorem State.overCount_iff_of_read_awaited {s : State} (hs : s.regs.seq = .rdWait)
    (ho : s.channel.outstanding = [.read 2]) :
    s.overCount = true ↔ s.inputs.rdDoneValid = true ∧ s.inputs.rdDoneErr = false ∧ s.inputs.rdDoneCount = 3 := by
  have hread : s.readOverCount = true ↔ s.inputs.rdDoneValid = true ∧ s.inputs.rdDoneErr = false ∧
      s.inputs.rdDoneCount = 3 := by
    rw [← rspLen_lt_toNat_iff]
    simp [State.readOverCount_iff, State.completable_of_waiting (.inr hs), ho, ChannelRequest.isRead,
      ChannelRequest.byteCount, rspLen]
  have hwrite : ¬ s.writeOverCount = true := by
    simp [State.writeOverCount_iff, State.completable_of_waiting (.inr hs), ho, ChannelRequest.isWrite]
  have hconsumed : ¬ s.consumesWrite = true := by simp [State.consumesWrite_iff, hs]
  rw [State.overCount_iff, hread, State.consumesRead_iff]
  tauto

/-- A write count that differs from the length is reported with both (41_exchange R115). -/
theorem Regs.writeDone_result_of_count_ne {r : Regs} {i : Inputs} (he : i.wrDoneErr = false) (hc : i.wrDoneCount ≠ r.lenQ) :
    (r.writeDone i).result = .writeIncomplete r.lenQ i.wrDoneCount := by
  rcases r.writeDone_cases i with ⟨he', -⟩ | ⟨-, -, e⟩ | ⟨-, hc', -⟩ | ⟨-, hc', -⟩
  · rw [he] at he'; contradiction
  · rw [e]; rfl
  all_goals exact absurd hc' hc

/-- A completion with no request of its kind outstanding is stray in every state (20_memory R53). -/
theorem State.strayWrite_of_none_outstanding {s : State} (hv : s.inputs.wrDoneValid = true)
    (h : ∀ len bytes, ChannelRequest.write len bytes ∉ s.channel.outstanding) : s.strayWrite = true := by
  have hnone : s.channel.outstanding.any ChannelRequest.isWrite = false := by
    refine List.any_eq_false.2 fun q hq hw => ?_
    obtain ⟨len, bytes, rfl⟩ := ChannelRequest.isWrite_iff.1 hw
    exact h len bytes hq
  simp [State.strayWrite, hv, hnone]

theorem State.strayRead_of_none_outstanding {s : State} (hv : s.inputs.rdDoneValid = true)
    (h : ∀ max, ChannelRequest.read max ∉ s.channel.outstanding) : s.strayRead = true := by
  have hnone : s.channel.outstanding.any ChannelRequest.isRead = false := by
    refine List.any_eq_false.2 fun q hq hr => ?_
    obtain ⟨max, rfl⟩ := ChannelRequest.isRead_iff.1 hr
    exact h max hq
  simp [State.strayRead, hv, hnone]

end Sys2Proof.Machine

namespace Sys2Proof.Proofs

open Sys2Proof.Machine

/-- Settles O39: the channel in step has the awaited request alone, so an over-count can be of nothing else. -/
theorem inStepOnlyTheAwaitedCountIsRecorded : Obligations.InStepOnlyTheAwaitedCountIsRecorded := by
  intro s t hstep hchannel
  refine ⟨fun hs => ?_, fun hs => ?_⟩ <;> simp only [State.ChannelInStep, hs] at hchannel
  · rw [step_countOverRequest hstep, State.overCount_iff_of_write_awaited hs hchannel]
  · rw [step_countOverRequest hstep, State.overCount_iff_of_read_awaited hs hchannel]

/-- Settles O38: the record by the channel's request at any edge, and by the block's own where it consumes the completion. -/
theorem countAboveRequestIsReportedAndRecorded : Obligations.CountAboveRequestIsReportedAndRecorded := by
  refine ⟨fun s t hstep => ⟨fun hv he hex hall => ?_, fun hv he hex hall => ?_⟩,
    fun s t hstep hr => ⟨fun hs hv he hlt => ?_, fun hs hv he hc => ?_⟩⟩
  · have hover := State.writeOverCount_of_outstanding hv he hex hall
    exact (step_countOverRequest hstep).2 (.inr (s.overCount_iff.2 (.inl hover)))
  · have hover := State.readOverCount_of_outstanding hv he hex hall
    exact (step_countOverRequest hstep).2 (.inr (s.overCount_iff.2 (.inr (.inl hover))))
  · constructor
    · rw [step_regs hstep, State.nextRegs_of_busy hr (by simp [hs]), Regs.exchangeEdge_of_writeDone hs hv]
      exact Regs.writeDone_result_of_count_ne he fun heq => by simp [heq] at hlt
    · have hconsumed := s.consumesWrite_iff.2 ⟨hr, hs, hv⟩
      exact (step_countOverRequest hstep).2 (.inr (s.overCount_iff.2 (.inr (.inr (.inl ⟨hconsumed, he, hlt⟩)))))
  · constructor
    · have hcompletion : s.inputs.readCompletion = some .overCount := by simp [Inputs.readCompletion, hv, he, hc]
      rw [step_regs hstep, State.nextRegs_of_busy hr (by simp [hs]), Regs.exchangeEdge_of_readDone hs hv,
        Regs.readDone_result hcompletion]
      rfl
    · have hconsumed := s.consumesRead_iff.2 ⟨hr, hs, hv⟩
      exact (step_countOverRequest hstep).2 (.inr (s.overCount_iff.2 (.inr (.inr (.inr ⟨hconsumed, he, hc⟩)))))

/-- Settles O40: no request of its kind outstanding is one of the two grounds of the stray record. -/
theorem unrequestedCompletionIsRecorded : Obligations.UnrequestedCompletionIsRecorded := by
  intro s t hstep
  rw [step_faults hstep]
  refine ⟨fun hv hnone => ?_, fun hv hnone => ?_⟩
  · simp [State.faultsEdge, State.strayWrite_of_none_outstanding hv hnone]
  · simp [State.faultsEdge, State.strayRead_of_none_outstanding hv hnone]

end Sys2Proof.Proofs
end

section
/-! What an edge puts on the wire (20_memory R51, R60). -/

namespace Sys2Proof.Machine

/-- The bytes of the oldest outstanding write enter the wire log at its completion. -/
theorem Channel.completeWrite_wire_of_find? {c : Channel} {q : ChannelRequest}
    (h : c.outstanding.find? ChannelRequest.isWrite = some q) (w : WriteCompletion) (n : Nat) :
    (c.completeWrite w n).wire = c.wire ++ q.sent w n := by
  simp [Channel.completeWrite, h]

/-- Neither the wait, nor a request taken, nor a read's completion writes the wire log. -/
theorem State.channelEdge_wire_of_writeCompletion {s : State} {w : WriteCompletion} (h : s.inputs.writeCompletion = some w) :
    s.channelEdge.wire = (s.channel.completeWrite w (Config.freeErrorBytes s.edge)).wire := by
  have hedge : s.channelEdge.wire = s.channelCompletes.wire := by
    unfold State.channelEdge
    cases s.requestTransferred <;> simp
  rw [hedge, State.channelCompletes, h]
  split <;> simp

theorem Inputs.writeCompletion_of_count {i : Inputs} (hv : i.wrDoneValid = true) (he : i.wrDoneErr = false) :
    i.writeCompletion = some (.count i.wrDoneCount) := by
  simp [Inputs.writeCompletion, hv, he]

theorem Inputs.writeCompletion_of_error {i : Inputs} (hv : i.wrDoneValid = true) (he : i.wrDoneErr = true) :
    i.writeCompletion = some (.error i.wrDoneCause) := by
  simp [Inputs.writeCompletion, hv, he]

/-- In WR_WAIT with the channel in step, a write completion appends what it says of the awaited request was sent. -/
theorem State.channelEdge_wire_of_write_awaited {s : State} (hs : s.regs.seq = .wrWait) (hchannel : s.ChannelInStep)
    {w : WriteCompletion} (hw : s.inputs.writeCompletion = some w) :
    s.channelEdge.wire = s.channel.wire ++ s.regs.outputs.writeRequest.sent w (Config.freeErrorBytes s.edge) := by
  simp only [State.ChannelInStep, hs] at hchannel
  have hfind : s.channel.outstanding.find? ChannelRequest.isWrite = some s.regs.outputs.writeRequest := by
    rw [hchannel]
    rfl
  rw [State.channelEdge_wire_of_writeCompletion hw, Channel.completeWrite_wire_of_find? hfind]

end Sys2Proof.Machine

namespace Sys2Proof.Proofs

open Sys2Proof.Machine

/-- Settles O43: the request completed is the awaited one, whose bytes are the frame in the registers. -/
theorem writtenBytesAreTheFirstOfTheFrame : Obligations.WrittenBytesAreTheFirstOfTheFrame := by
  intro s t hstep hchannel hconsumes
  obtain ⟨-, hs, hv⟩ := s.consumesWrite_iff.1 hconsumes
  rw [step_channel hstep]
  refine ⟨fun he => ?_, fun he => ⟨Config.freeErrorBytes s.edge, ?_⟩⟩
  · exact State.channelEdge_wire_of_write_awaited hs hchannel (Inputs.writeCompletion_of_count hv he)
  · exact State.channelEdge_wire_of_write_awaited hs hchannel (Inputs.writeCompletion_of_error hv he)

end Sys2Proof.Proofs
end

section
/-! The command word and its bytes: the decoder and the encoder undo each other (30_encoding R70 to R72). -/

namespace Sys2Proof

theorem decodeWord_encodeWord (i : Instr) : decodeWord (encodeWord i) = i := by
  cases i <;> simp [encodeWord, decodeWord_commandWordOf]

/-- Each row's format puts back the fields its decoder read, the ignored ones included (R72). -/
theorem encodeWord_decodeWord_commandWordOf (c : Bool) (op : BitVec 2) (v : Half) :
    encodeWord (decodeWord (commandWordOf c op v)) = commandWordOf c op v := by
  rw [decodeWord_commandWordOf]
  rcases op_cases op with rfl | rfl | rfl | rfl
  · rfl
  · rfl
  · cases c <;> rfl
  · rfl

theorem encodeWord_decodeWord (cw : CommandWord) : encodeWord (decodeWord cw) = cw := by
  rw [← commandWordOf_fields cw, encodeWord_decodeWord_commandWordOf]

/-- The decoded command has the word's op field as its code (R70). -/
theorem decodeWord_op (cw : CommandWord) : (decodeWord cw).op = opField cw := by
  rw [← commandWordOf_fields cw, decodeWord_commandWordOf, opField_commandWordOf]
  rcases op_cases (opField cw) with h | h | h | h <;> rw [h]
  · rfl
  · rfl
  · cases checkedField cw <;> rfl
  · rfl

/-- Fields joined above the same lower field are equal where the results are. -/
theorem join_left_inj {n m : Nat} {x y : BitVec n} (z : BitVec m) : x ++ z = y ++ z ↔ x = y := by
  refine ⟨fun h => BitVec.eq_of_toNat_eq ?_, fun h => by rw [h]⟩
  have h := congrArg BitVec.toNat h
  rw [toNat_join, toNat_join] at h
  exact Nat.eq_of_mul_eq_mul_right (Nat.two_pow_pos m) (Nat.add_right_cancel h)

/-- A row's test reads the three bits above the value alone (opcode_table.json: no mask has a value bit). -/
theorem rowMatches_commandWordOf (c : Bool) (op : BitVec 2) (v : Half) (mask pattern : BitVec 3) :
    rowMatches (mask ++ 0#16) (pattern ++ 0#16) (commandWordOf c op v) =
      ((BitVec.ofBool c ++ op) &&& mask == pattern) := by
  rw [rowMatches, Laws.EncodingRow.upper_of_word, Bool.eq_iff_iff, beq_iff_eq, beq_iff_eq, join_left_inj]

/-- The five rows of opcode_table.json, mask and match. -/
def opcodeRows : List (CommandWord × CommandWord) :=
  [(0x30000, 0x00000), (0x30000, 0x10000), (0x70000, 0x20000), (0x70000, 0x60000), (0x30000, 0x30000)]

/-- The three bits above the value that each row's mask and match have. -/
def opcodeRowBits : List (BitVec 3 × BitVec 3) := [(3, 0), (3, 1), (7, 2), (7, 6), (3, 3)]

theorem opcodeRows_eq_map : opcodeRows = opcodeRowBits.map fun row => (row.1 ++ 0#16, row.2 ++ 0#16) := by decide

theorem opcodeRows_match_once (cw : CommandWord) :
    (opcodeRows.filter fun row => rowMatches row.1 row.2 cw).length = 1 := by
  have hbits : ∀ (c : Bool) (op : BitVec 2),
      (opcodeRowBits.filter fun row => (BitVec.ofBool c ++ op) &&& row.1 == row.2).length = 1 := by decide
  rw [← commandWordOf_fields cw, opcodeRows_eq_map, List.filter_map, List.length_map]
  simpa only [Function.comp_def, rowMatches_commandWordOf] using hbits (checkedField cw) (opField cw)

/-- The three bytes of a command word, put together again (log 4). -/
theorem commandWord_of_bytes (cw : CommandWord) :
    ((cw.extractLsb' 16 3).setWidth 8).setWidth 3 ++ cw.extractLsb' 8 8 ++ cw.extractLsb' 0 8 = cw := by
  apply BitVec.eq_of_toNat_eq
  have := cw.isLt
  simp only [toNat_join, BitVec.toNat_setWidth, BitVec.extractLsb'_toNat, Nat.shiftRight_eq_div_pow]
  omega

theorem decode_of_lt (b0 b1 : Byte) {b2 : Byte} (rest : List Byte) (h : b2.toNat < 8) :
    decode (b0 :: b1 :: b2 :: rest) = .ok (decodeWord (b2.setWidth 3 ++ b1 ++ b0), rest) := if_pos h

theorem decode_of_le (b0 b1 : Byte) {b2 : Byte} (rest : List Byte) (h : 8 ≤ b2.toNat) :
    decode (b0 :: b1 :: b2 :: rest) = .error .bitsAboveCommandWord := if_neg h.not_gt

theorem decode_of_short : ∀ {bytes : List Byte}, bytes.length < 3 → decode bytes = .error .truncated
  | [], _ | [_], _ | [_, _], _ => rfl
  | _ :: _ :: _ :: _, h => by simp at h; omega

theorem decode_encode_append (i : Instr) (rest : List Byte) : decode (encode i ++ rest) = .ok (i, rest) := by
  have htop : (((encodeWord i).extractLsb' 16 3).setWidth 8).toNat < 8 := by
    rw [BitVec.toNat_setWidth]
    omega
  rw [encode, List.cons_append, List.cons_append, List.cons_append, List.nil_append, decode_of_lt _ _ _ htop,
    commandWord_of_bytes, decodeWord_encodeWord]

end Sys2Proof

namespace Sys2Proof.Machine

/-- An encoded Set Target reads twelve bits of the value (40_frame_codec R98). -/
theorem encodeSetTarget_masked (v : Half) : encodeSetTarget (v &&& 0x0FFF) = encodeSetTarget v := by
  have hv : (v &&& 0x0FFF).toNat = v.toNat % 4096 := Nat.and_two_pow_sub_one_eq_mod v.toNat 12
  have h0 : setByte0 (v &&& 0x0FFF) = setByte0 v := by
    apply BitVec.eq_of_toNat_eq
    rw [setByte0_toNat, setByte0_toNat, hv]
    omega
  have h1 : setByte1 (v &&& 0x0FFF) = setByte1 v := by
    apply BitVec.eq_of_toNat_eq
    rw [setByte1_toNat, setByte1_toNat, hv]
    omega
  rw [encodeSetTarget, encodeSetTarget, h0, h1]

end Sys2Proof.Machine

namespace Sys2Proof.Proofs

open Sys2Proof.Machine

/-- Settles O1: the round trips field by field, and through the three bytes, whose upper one holds three bits of the word. -/
theorem commandWordsDecodeAndEncodeAgree : Obligations.CommandWordsDecodeAndEncodeAgree :=
  ⟨decodeWord_encodeWord, encodeWord_decodeWord, decode_encode_append⟩

/-- Settles O2: a row tests the op and checked fields alone, and of each of their eight values one row is met. -/
theorem eachCommandWordMatchesOneRow : Obligations.EachCommandWordMatchesOneRow := by
  intro cw
  exact ⟨opcodeRows_match_once cw, decodeWord_op cw, by rw [encodeWord_decodeWord, commandWordOf_fields]⟩

/-- Settles O3: seven words, evaluated. -/
theorem sampleCommandWordsDecode : Obligations.SampleCommandWordsDecode := by
  unfold Obligations.SampleCommandWordsDecode
  decide

/-- Settles O4: a set bit above the word makes the third byte at least 8. -/
theorem nonCommandWordsAreRejected : Obligations.NonCommandWordsAreRejected :=
  ⟨fun b0 b1 _ rest h => decode_of_le b0 b1 rest h, fun _ h => decode_of_short h⟩

/-- Settles O6: both bytes by their unsigned values. -/
theorem setFrameFieldsAreMarkerAndValueBits : Obligations.SetFrameFieldsAreMarkerAndValueBits := by
  intro v
  have h0 := setByte0_toNat v
  have h1 := setByte1_toNat v
  refine ⟨?_, ?_, by omega, by omega, by omega⟩
  · apply BitVec.eq_of_toNat_eq
    rw [h0, toNat_join, BitVec.extractLsb'_toNat]
    rfl
  · apply BitVec.eq_of_toNat_eq
    rw [h1, toNat_join, BitVec.extractLsb'_toNat, Nat.shiftRight_eq_div_pow]
    simp

/-- Settles O18: no meaning reads an ignored field, and the frame of a Set Target reads twelve bits of its value. -/
theorem ignoredFieldsHaveNoEffect : Obligations.IgnoredFieldsHaveNoEffect := by
  intro s c c' v v'
  refine ⟨rfl, rfl, rfl, ?_, fun hv => ?_⟩
  · simp only [exec_eq_commandEdge, acceptedRegs, encodeSetTarget_masked]
  · have hrange : inRange v = true := by simpa [inRange] using hv
    simp only [exec_eq_commandEdge, acceptedRegs, hrange, if_true]

end Sys2Proof.Proofs
end

section
/-! Legal frames, and streams made of them (30_encoding R73, R77, R78). -/

namespace Sys2Proof.Machine

/-! The bit fields of a byte, as ranges of its unsigned value. -/

theorem getLsbD_seven_iff (b : Byte) : b.getLsbD 7 = true ↔ 128 ≤ b.toNat := by
  rw [← BitVec.msb_eq_getLsbD_last, BitVec.msb_eq_decide]
  simp

theorem getLsbD_seven_eq_false_iff (b : Byte) : b.getLsbD 7 = false ↔ b.toNat < 128 := by
  rw [← Bool.not_eq_true, getLsbD_seven_iff, not_le]

/-- The marker of a Set Target's first byte (R74). -/
theorem marker_iff (b : Byte) : b.extractLsb' 5 3 = 0b110#3 ↔ b.toNat / 32 = 6 := by
  rw [← BitVec.toNat_inj, BitVec.extractLsb'_toNat, Nat.shiftRight_eq_div_pow]
  have := b.isLt
  have h6 : (0b110#3).toNat = 6 := rfl
  omega

theorem frameLength_of_marker {b : Byte} (h : b.extractLsb' 5 3 = 0b110#3) : frameLength b = some 2 := by
  have hshift : b >>> 5 = 0b110 := by
    apply BitVec.eq_of_toNat_eq
    rw [BitVec.toNat_ushiftRight, Nat.shiftRight_eq_div_pow]
    exact (marker_iff b).1 h
  exact if_pos hshift

theorem setByte0_marker (v : Half) : (setByte0 v).extractLsb' 5 3 = 0b110#3 := by
  rw [marker_iff, setByte0_toNat]
  omega

theorem setByte1_top (v : Half) : (setByte1 v).getLsbD 7 = false := by
  rw [getLsbD_seven_eq_false_iff, setByte1_toNat]
  omega

/-- The first byte of a frame names its length and alone has bit 7 set (R78). -/
theorem LegalFrame.head {f : List Byte} (h : LegalFrame f) :
    ∃ b rest, f = b :: rest ∧ frameLength b = some f.length ∧ b.getLsbD 7 = true ∧
      (f.length = 2 ↔ b.extractLsb' 5 3 = 0b110#3) ∧ ∀ x ∈ rest, x.getLsbD 7 = false := by
  rcases h with rfl | rfl | ⟨v, rfl⟩
  · exact ⟨opcGetFeedback, [], rfl, by decide, by decide, by decide, by simp⟩
  · exact ⟨opcGetTarget, [], rfl, by decide, by decide, by decide, by simp⟩
  · have hmarker := setByte0_marker v
    refine ⟨setByte0 v, [setByte1 v], rfl, frameLength_of_marker hmarker, ?_, by simp [hmarker],
      List.forall_mem_singleton.2 (setByte1_top v)⟩
    rw [getLsbD_seven_iff, setByte0_toNat]
    omega

/-- Every byte of a frame is one the block may send (R77). -/
theorem LegalFrame.legalByte {f : List Byte} (h : LegalFrame f) : ∀ b ∈ f, LegalByte b := by
  rcases h with rfl | rfl | ⟨v, rfl⟩
  · exact List.forall_mem_singleton.2 (.inl rfl)
  · exact List.forall_mem_singleton.2 (.inr (.inl rfl))
  · have h0 := setByte0_toNat v
    have h1 := setByte1_toNat v
    refine List.forall_mem_cons.2 ⟨.inr (.inr (.inl ?_)), List.forall_mem_singleton.2 (.inr (.inr (.inr ?_)))⟩ <;> omega

/-! Streams of whole frames. -/

theorem Framed.nil : Framed [] := ⟨[], by simp, rfl⟩

theorem LegalFrame.framed {f : List Byte} (h : LegalFrame f) : Framed f := ⟨[f], by simpa using h, by simp⟩

theorem Framed.append {a b : List Byte} (ha : Framed a) (hb : Framed b) : Framed (a ++ b) := by
  obtain ⟨fs, hfs, rfl⟩ := ha
  obtain ⟨gs, hgs, rfl⟩ := hb
  exact ⟨fs ++ gs, List.forall_mem_append.2 ⟨hfs, hgs⟩, List.flatten_append.symm⟩

/-- A byte with bit 7 set in a frame is its first. -/
theorem LegalFrame.before_eq_nil {before after : List Byte} {b : Byte} (h : LegalFrame (before ++ b :: after))
    (hb : b.getLsbD 7 = true) : before = [] := by
  obtain ⟨b0, rest, hf, -, -, -, hrest⟩ := h.head
  cases before with
  | nil => rfl
  | cons x xs =>
    obtain ⟨-, rfl⟩ := List.cons.inj hf
    have hclear := hrest b (by simp)
    rw [hb] at hclear
    contradiction

/-- In a stream of whole frames a byte with bit 7 set starts a frame: it stands in the first frame, as its first byte, or in the
stream of the others (R78). -/
theorem Framed.split_at_top {before after : List Byte} {b : Byte} (h : Framed (before ++ b :: after))
    (hb : b.getLsbD 7 = true) : Framed before ∧ Framed (b :: after) := by
  obtain ⟨frames, hlegal, hstream⟩ := h
  induction frames generalizing before with
  | nil => simp at hstream
  | cons f fs ih =>
    obtain ⟨hf, hfs⟩ := List.forall_mem_cons.1 hlegal
    rw [List.flatten_cons] at hstream
    rcases List.append_eq_append_iff.1 hstream with ⟨mid, rfl, htail⟩ | ⟨mid, rfl, htail⟩
    · cases mid with
      | nil =>
        rw [List.append_nil] at hf
        exact ⟨hf.framed, fs, hfs, htail⟩
      | cons x xs =>
        obtain ⟨rfl, -⟩ := List.cons.inj htail
        obtain rfl := hf.before_eq_nil hb
        exact ⟨.nil, _, hlegal, hstream⟩
    · obtain ⟨hmid, hrest⟩ := ih hfs htail.symm
      exact ⟨hf.framed.append hmid, hrest⟩

end Sys2Proof.Machine

namespace Sys2Proof.Proofs

open Sys2Proof.Machine

/-- Settles O12: the first byte's bits, frame by frame, and the split of a stream by induction on its frames. -/
theorem topBitStartsAFrame : Obligations.TopBitStartsAFrame :=
  ⟨fun _ => frameLength_of_marker, by decide, fun _ => LegalFrame.head, fun _ _ _ => Framed.split_at_top⟩

end Sys2Proof.Proofs
end

section
/-! The request due, the outstanding writes and the wire over a step (30_encoding R77, R78). -/

namespace Sys2Proof.Machine

/-- A command that sends a frame leaves that frame in the request registers (41_exchange R111). -/
theorem acceptedRegs_requestOk {i : Instr} {f : Frame} (h : frameOf i = some f) (r : Regs) : (acceptedRegs i r).RequestOk := by
  obtain ⟨-, hlen, hframe, -⟩ := acceptedRegs_frame h r
  rw [Regs.RequestOk, hlen, hframe, (acceptedRegs_common i r).1]
  cases i with
  | settgC v =>
    by_cases hv : inRange v <;> simp only [frameOf, hv] at h
    · exact .inr (.inr ⟨rfl, v, (Option.some.inj h).symm⟩)
    · cases h
  | settg v => exact .inr (.inr ⟨rfl, v, (Option.some.inj h).symm⟩)
  | op3 _ _ => cases h
  | getfb _ _ => exact .inl ⟨rfl, (Option.some.inj h).symm⟩
  | gettg _ _ => exact .inr (.inl ⟨rfl, (Option.some.inj h).symm⟩)

/-- The registers hold a request in WR_REQ and WR_WAIT, where `WireOk` asks for its frame. -/
def Regs.WriteDue (r : Regs) : Prop := r.seq = .wrReq ∨ r.seq = .wrWait

/-- No edge of the exchange in flight comes to a write from elsewhere (R110). -/
theorem Regs.WriteDue.of_exchangeEdge {r : Regs} {i : Inputs} (h : (r.exchangeEdge i).WriteDue) : r.WriteDue := by
  rcases r.exchangeEdge_cases i with e | ⟨hs, -, -⟩ | ⟨hs, -, -⟩ | ⟨-, -, e⟩ | ⟨-, -, e⟩ | ⟨-, -, e⟩
  · exact e ▸ h
  · exact .inl hs
  · exact .inr hs
  all_goals rw [e] at h
  · simp [Regs.WriteDue] at h
  · simp [Regs.WriteDue, Regs.readDone_seq] at h
  · simp [Regs.WriteDue] at h

theorem Regs.RequestOk.exchangeEdge {r : Regs} (h : r.RequestOk) (i : Inputs) : (r.exchangeEdge i).RequestOk := by
  obtain ⟨hop, hlen, hframe⟩ := r.exchangeEdge_keeps_request i
  rwa [Regs.RequestOk, hop, hlen, hframe]

/-- The block's edge keeps a frame of its command in the request registers while a write is due. -/
theorem State.nextRegs_requestOk {s : State} (h : s.regs.WriteDue → s.regs.RequestOk) (hdue : s.nextRegs.WriteDue) :
    s.nextRegs.RequestOk := by
  rcases s.nextRegs_cases with ⟨-, e⟩ | ⟨-, -, -, e⟩ | ⟨-, -, -, e⟩ | ⟨-, -, e⟩ <;> rw [e] at hdue ⊢
  · simp [Regs.WriteDue] at hdue
  · exact h hdue
  · cases hf : frameOf (decodeWord s.inputs.commandWord) with
    | some f => exact acceptedRegs_requestOk hf _
    | none => simp [Regs.WriteDue, acceptedRegs_immediate hf] at hdue
  · exact (h hdue.of_exchangeEdge).exchangeEdge _

/-- The write presented is a legal frame, all of whose bytes it asks for (R73, 41_exchange R113). -/
theorem Regs.RequestOk.frame {r : Regs} (h : r.RequestOk) :
    LegalFrame (frameBytes r.lenQ r.frameQ) ∧ (frameBytes r.lenQ r.frameQ).length = r.lenQ.toNat := by
  obtain ⟨f, rfl, hf⟩ : ∃ f, Frame.mk r.lenQ r.frameQ = f ∧
      LegalFrame (frameBytes f.len f.data) ∧ (frameBytes f.len f.data).length = f.len.toNat := by
    rcases h with ⟨-, h⟩ | ⟨-, h⟩ | ⟨-, v, h⟩ <;> refine ⟨_, h, ?_⟩
    · rw [frameBytes_encodeGetFeedback]
      exact ⟨.inl rfl, rfl⟩
    · rw [frameBytes_encodeGetTarget]
      exact ⟨.inr (.inl rfl), rfl⟩
    · rw [frameBytes_encodeSetTarget]
      exact ⟨.inr (.inr ⟨v, rfl⟩), rfl⟩
  exact hf

/-- A request outstanding after an edge was so before it, or is the one taken at it. -/
theorem State.mem_channelEdge_outstanding {s : State} {q : ChannelRequest} (h : q ∈ s.channelEdge.outstanding) :
    q ∈ s.channel.outstanding ∨ s.requestTransferred = some q := by
  obtain ⟨p, hp, rfl⟩ := List.mem_map.1 h
  rcases State.mem_channelEdge_pending hp with ⟨p', hp', rfl⟩ | ⟨htaken, -⟩
  · exact .inl (List.mem_map.2 ⟨p', hp', rfl⟩)
  · exact .inr htaken

/-- The one write that can transfer is the one presented in WR_REQ. -/
theorem State.requestTransferred_write {s : State} {len : BitVec 2} {bytes : List Byte}
    (h : s.requestTransferred = some (.write len bytes)) :
    s.regs.seq = .wrReq ∧ bytes = frameBytes s.regs.lenQ s.regs.frameQ := by
  rcases s.requestTransferred_cases with e | ⟨hs, -, -, e⟩ | ⟨-, -, -, e⟩ <;> rw [h] at e
  · cases e
  · obtain ⟨-, hbytes⟩ := ChannelRequest.write.inj (Option.some.inj e)
    exact ⟨hs, hbytes⟩
  · cases e

/-- Without a write completion nothing enters the wire log. -/
theorem State.channelEdge_wire_of_no_writeCompletion {s : State} (h : s.inputs.writeCompletion = none) :
    s.channelEdge.wire = s.channel.wire := by
  have hcompletes : s.channelCompletes.wire = s.channel.wire := by
    simp only [State.channelCompletes, h]
    split <;> rfl
  unfold State.channelEdge
  split <;> simpa using hcompletes

/-- What an edge puts on the wire: nothing, or the first bytes of an outstanding write (20_memory R51). -/
theorem State.channelEdge_wire_cases (s : State) : s.channelEdge.wire = s.channel.wire ∨
    ∃ len bytes k, .write len bytes ∈ s.channel.outstanding ∧ s.channelEdge.wire = s.channel.wire ++ bytes.take k := by
  cases hw : s.inputs.writeCompletion with
  | none => exact .inl (State.channelEdge_wire_of_no_writeCompletion hw)
  | some w =>
    rw [State.channelEdge_wire_of_writeCompletion hw]
    rcases s.channel.completeWrite_wire w (Config.freeErrorBytes s.edge) with e | ⟨q, hq, -, e⟩
    · exact .inl e
    · rw [e]
      rcases q.sent_eq_take w (Config.freeErrorBytes s.edge) with hsent | ⟨len, bytes, k, rfl, hsent⟩ <;> rw [hsent]
      · exact .inl (List.append_nil _)
      · exact .inr ⟨len, bytes, k, hq, rfl⟩

/-- An edge keeps the outstanding writes legal: the one taken is the one presented. -/
theorem State.WireOk.channelEdge_outstanding {s : State} (h : s.WireOk) {len : BitVec 2} {bytes : List Byte}
    (hmem : .write len bytes ∈ s.channelEdge.outstanding) : LegalFrame bytes := by
  rcases State.mem_channelEdge_outstanding hmem with hmem | htaken
  · exact h.outstanding len bytes hmem
  · obtain ⟨hs, rfl⟩ := State.requestTransferred_write htaken
    exact (h.request (.inl hs)).frame.1

/-- An edge keeps the wire's bytes legal: what enters it is of an outstanding write. -/
theorem State.WireOk.channelEdge_wire {s : State} (h : s.WireOk) : ∀ b ∈ s.channelEdge.wire, LegalByte b := by
  rcases s.channelEdge_wire_cases with e | ⟨len, bytes, k, hmem, e⟩ <;> rw [e]
  · exact h.wire
  · have hframe := h.outstanding len bytes hmem
    exact List.forall_mem_append.2 ⟨h.wire, fun b hb => hframe.legalByte b (List.mem_of_mem_take hb)⟩

/-- In WR_WAIT with the channel in step, a full write completion appends the whole frame. -/
theorem State.channelEdge_wire_of_full_write {s : State} (hs : s.regs.seq = .wrWait) (hchannel : s.ChannelInStep)
    (hrequest : s.regs.RequestOk) (hw : s.inputs.writeCompletion = some (.count s.regs.lenQ)) :
    s.channelEdge.wire = s.channel.wire ++ frameBytes s.regs.lenQ s.regs.frameQ := by
  rw [State.channelEdge_wire_of_write_awaited hs hchannel hw]
  exact congrArg (s.channel.wire ++ ·) (List.take_of_length_le hrequest.frame.2.le)

end Sys2Proof.Machine

namespace Sys2Proof.Proofs

open Sys2Proof.Machine

/-- Settles O50: the three parts of the invariant, each kept by its own edge. -/
theorem onlyLegalBytesReachTheWire : Obligations.OnlyLegalBytesReachTheWire := by
  intro s t hstep h
  refine ⟨?_, ?_, ?_⟩
  · rw [step_regs hstep]
    exact State.nextRegs_requestOk h.request
  · rw [step_channel hstep]
    exact fun _ _ => h.channelEdge_outstanding
  · rw [step_channel hstep]
    exact h.channelEdge_wire

/-- Settles O51: nothing enters the wire, or the whole frame awaited. -/
theorem fullWritesKeepTheWireFramed : Obligations.FullWritesKeepTheWireFramed := by
  intro s t hstep h hchannel hframed hcompletion
  rw [step_channel hstep]
  rcases hcompletion with hnone | ⟨hconsumes, hfull⟩
  · rwa [State.channelEdge_wire_of_no_writeCompletion hnone]
  · obtain ⟨-, hs, -⟩ := s.consumesWrite_iff.1 hconsumes
    have hrequest := h.request (.inr hs)
    rw [State.channelEdge_wire_of_full_write hs hchannel hrequest hfull]
    exact hframed.append hrequest.frame.1.framed

end Sys2Proof.Proofs
end

section
/-! The frame codec: the response value, and the Set Target encoder and its inverse (40_frame_codec R90 to R100). -/

namespace Sys2Proof.Machine

/-! A 16-bit word as its two byte lanes (20_memory R57), and the response decoder that joins them (R95, R99). -/

@[simp] theorem secondByte_join_firstByte (d : Half) : secondByte d ++ firstByte d = d := by
  apply BitVec.eq_of_toNat_eq
  rw [toNat_join, firstByte_toNat, secondByte_toNat]
  omega

theorem decodeResponse_toNat (lo hi : Byte) : (decodeResponse lo hi).toNat = lo.toNat + 256 * hi.toNat := by
  have := lo.isLt
  have := hi.isLt
  simp only [decodeResponse, BitVec.toNat_add, BitVec.toNat_mul, BitVec.toNat_setWidth, BitVec.toNat_ofNat]
  omega

theorem decodeResponse_eq_join (lo hi : Byte) : decodeResponse lo hi = hi ++ lo := by
  apply BitVec.eq_of_toNat_eq
  rw [decodeResponse_toNat, toNat_join]
  omega

/-- The two lanes of a decoded response are the bytes decoded. -/
theorem decodeResponse_inj {lo hi lo' hi' : Byte} (h : decodeResponse lo hi = decodeResponse lo' hi') :
    lo = lo' ∧ hi = hi' := by
  rw [decodeResponse_eq_join, decodeResponse_eq_join] at h
  exact ⟨by simpa using congrArg firstByte h, by simpa using congrArg secondByte h⟩

/-! `DecodeSetPayload` undoes the Set Target encoder (R96, R97). -/

@[simp] theorem firstByte_encodeSetTarget (v : Half) : firstByte (encodeSetTarget v).data = setByte0 v :=
  firstByte_join _ _

@[simp] theorem secondByte_encodeSetTarget (v : Half) : secondByte (encodeSetTarget v).data = setByte1 v :=
  secondByte_join _ _

theorem toNat_and_0x0FFF (v : Half) : (v &&& 0x0FFF).toNat = v.toNat % 4096 :=
  Nat.and_two_pow_sub_one_eq_mod v.toNat 12

theorem and_0x0FFF_of_le {v : Half} (hv : v.toNat ≤ 4095) : v &&& 0x0FFF = v := by
  apply BitVec.eq_of_toNat_eq
  rw [toNat_and_0x0FFF]
  omega

/-- Five bits of the first byte, and above them seven of the second. -/
theorem decodeSetPayload_toNat (b0 b1 : Byte) :
    (decodeSetPayload b0 b1).toNat = b0.toNat % 32 + 32 * (b1.toNat % 128) := by
  have hlow : (b0.setWidth 16 &&& 0x1F#16).toNat = b0.toNat % 32 := by
    rw [BitVec.toNat_and, show (0x1F#16).toNat = 2 ^ 5 - 1 by decide, Nat.and_two_pow_sub_one_eq_mod,
      BitVec.toNat_setWidth]
    omega
  have hhigh : ((b1.setWidth 16 &&& 0x7F#16) <<< 5).toNat = (b1.toNat % 128) <<< 5 := by
    rw [BitVec.toNat_shiftLeft, BitVec.toNat_and, show (0x7F#16).toNat = 2 ^ 7 - 1 by decide,
      Nat.and_two_pow_sub_one_eq_mod, BitVec.toNat_setWidth, Nat.shiftLeft_eq, Nat.shiftLeft_eq]
    omega
  rw [decodeSetPayload, BitVec.toNat_or, hlow, hhigh, Nat.or_comm,
    ← Nat.shiftLeft_add_eq_or_of_lt (show b0.toNat % 32 < 2 ^ 5 by omega), Nat.shiftLeft_eq]
  omega

theorem decodeSetPayload_setBytes (v : Half) : decodeSetPayload (setByte0 v) (setByte1 v) = v &&& 0x0FFF := by
  apply BitVec.eq_of_toNat_eq
  rw [decodeSetPayload_toNat, setByte0_toNat, setByte1_toNat, toNat_and_0x0FFF]
  omega

/-! What the Set Target encoder keeps of its value, and the frames it makes (R98). -/

theorem encodeSetTarget_eq_bytes_iff (v : Half) (b0 b1 : Byte) :
    encodeSetTarget v = ⟨2, b1 ++ b0⟩ ↔ setByte0 v = b0 ∧ setByte1 v = b1 := by
  constructor
  · intro h
    have hdata := congrArg Frame.data h
    exact ⟨by simpa using congrArg firstByte hdata, by simpa using congrArg secondByte hdata⟩
  · rintro ⟨rfl, rfl⟩
    rfl

/-- Two values have one frame exactly when they agree in twelve bits: the decoder gives those back, and the encoder reads no other. -/
theorem encodeSetTarget_eq_iff (v w : Half) : encodeSetTarget v = encodeSetTarget w ↔ v.toNat % 4096 = w.toNat % 4096 := by
  rw [← toNat_and_0x0FFF, ← toNat_and_0x0FFF, BitVec.toNat_inj]
  constructor
  · intro h
    obtain ⟨h0, h1⟩ := (encodeSetTarget_eq_bytes_iff v _ _).1 h
    rw [← decodeSetPayload_setBytes, h0, h1, decodeSetPayload_setBytes]
  · intro h
    rw [← encodeSetTarget_masked v, h, encodeSetTarget_masked]

/-- A byte pair in the encoder's range is the frame of its own payload. -/
theorem encodeSetTarget_decodeSetPayload {b0 b1 : Byte} (hlow : 0xC0 ≤ b0.toNat) (hhigh : b0.toNat ≤ 0xDF)
    (h1 : b1.toNat ≤ 0x7F) : encodeSetTarget (decodeSetPayload b0 b1) = ⟨2, b1 ++ b0⟩ := by
  rw [encodeSetTarget_eq_bytes_iff]
  constructor <;> apply BitVec.eq_of_toNat_eq
  · rw [setByte0_toNat, decodeSetPayload_toNat]
    omega
  · rw [setByte1_toNat, decodeSetPayload_toNat]
    omega

theorem decodeSetPayload_le (b0 b1 : Byte) : (decodeSetPayload b0 b1).toNat ≤ 4095 := by
  rw [decodeSetPayload_toNat]
  omega

/-! The encoder dispatch, and what a frame's first byte tells of it (R93, R100). -/

theorem encodeFrame_eq_some {op : BitVec 2} {v : Half} {f : Frame} (h : encodeFrame op v = some f) :
    (op = 0 ∧ f = encodeGetFeedback) ∨ (op = 1 ∧ f = encodeGetTarget) ∨ (op = 2 ∧ f = encodeSetTarget v) := by
  rcases op_cases op with rfl | rfl | rfl | rfl
  · exact .inl ⟨rfl, (Option.some.inj h).symm⟩
  · exact .inr (.inl ⟨rfl, (Option.some.inj h).symm⟩)
  · exact .inr (.inr ⟨rfl, (Option.some.inj h).symm⟩)
  · cases h

theorem setByte0_ne_of_lt {b : Byte} (hb : b.toNat < 0xC0) (v : Half) : setByte0 v ≠ b := by
  rintro rfl
  rw [setByte0_toNat] at hb
  omega

/-- The command code that a frame's first byte names. -/
def codeOfFirstByte (b : Byte) : BitVec 2 := if b = opcGetFeedback then 0 else if b = opcGetTarget then 1 else 2

theorem codeOfFirstByte_encodeFrame {op : BitVec 2} {v : Half} {f : Frame} (h : encodeFrame op v = some f) :
    codeOfFirstByte (firstByte f.data) = op := by
  rcases encodeFrame_eq_some h with ⟨rfl, rfl⟩ | ⟨rfl, rfl⟩ | ⟨rfl, rfl⟩
  · decide
  · decide
  · rw [firstByte_encodeSetTarget, codeOfFirstByte, if_neg (setByte0_ne_of_lt (by decide) v),
      if_neg (setByte0_ne_of_lt (by decide) v)]

theorem encodeFrame_length {op : BitVec 2} {v : Half} {f : Frame} (h : encodeFrame op v = some f) :
    frameLength (firstByte f.data) = some f.len.toNat ∧ (frameBytes f.len f.data).length = f.len.toNat := by
  rcases encodeFrame_eq_some h with ⟨-, rfl⟩ | ⟨-, rfl⟩ | ⟨-, rfl⟩
  · decide
  · decide
  · rw [firstByte_encodeSetTarget, frameBytes_encodeSetTarget]
    exact ⟨frameLength_of_marker (setByte0_marker v), rfl⟩

/-! The checked form's test (R94). -/

theorem inRange_iff (v : Half) : inRange v = true ↔ v.toNat ≤ 4095 := decide_eq_true_iff

theorem le_4095_iff_top_eq_zero (v : Half) : v.toNat ≤ 4095 ↔ v.extractLsb' 12 4 = 0 := by
  rw [← BitVec.toNat_inj, BitVec.extractLsb'_toNat, Nat.shiftRight_eq_div_pow]
  have := v.isLt
  have h0 : (0 : BitVec 4).toNat = 0 := rfl
  omega

end Sys2Proof.Machine

namespace Sys2Proof.Proofs

open Sys2Proof.Machine

/-- Settles O7: the encoder's kernel is agreement modulo 4096, and a pair in its range is the frame of its own payload. -/
theorem setTargetFramesMaskAndAreInjective : Obligations.SetTargetFramesMaskAndAreInjective := by
  refine ⟨fun v w h => ?_, fun v w hv hw h => ?_, fun b0 b1 => ⟨?_, ?_⟩, fun v => ?_⟩
  · rw [encodeSetTarget_eq_iff]
    simpa [BitVec.extractLsb'_toNat] using congrArg BitVec.toNat h
  · rw [encodeSetTarget_eq_iff] at h
    apply BitVec.eq_of_toNat_eq
    omega
  · rintro ⟨v, -, h⟩
    obtain ⟨rfl, rfl⟩ := (encodeSetTarget_eq_bytes_iff v b0 b1).1 h
    rw [setByte0_toNat, setByte1_toNat]
    omega
  · rintro ⟨hlow, hhigh, h1⟩
    exact ⟨_, decodeSetPayload_le b0 b1, encodeSetTarget_decodeSetPayload hlow hhigh h1⟩
  · rw [encodeSetTarget_eq_iff, BitVec.toNat_ofNat]
    omega

/-- Settles O8: the decoder gives the value's low twelve bits back, which are the value up to 4095. -/
theorem setPayloadRoundTrip : Obligations.SetPayloadRoundTrip := by
  intro v
  rw [firstByte_encodeSetTarget, secondByte_encodeSetTarget, decodeSetPayload_setBytes]
  exact ⟨rfl, and_0x0FFF_of_le⟩

/-- Settles O9: the decoded word is the two bytes joined. -/
theorem responseDecodeIsLoPlus256Hi : Obligations.ResponseDecodeIsLoPlus256Hi := by
  refine ⟨fun lo hi => ⟨decodeResponse_toNat lo hi, decodeResponse_eq_join lo hi⟩, fun lo hi => ?_,
    fun _ _ _ _ => decodeResponse_inj, fun d => ?_⟩
  · rw [decodeResponse_toNat]
    have := lo.isLt
    omega
  · rw [decodeResponse_eq_join, secondByte_join_firstByte]

/-- Settles O5: the frames by the dispatch, and the masks and shift of R92 as sums, remainders and quotients. -/
theorem encoderFramesEachCommand : Obligations.EncoderFramesEachCommand := by
  intro v
  refine ⟨rfl, rfl, rfl, rfl, ?_, ?_⟩
  · have hlow : v.toNat &&& 0x1F = v.toNat % 2 ^ 5 := Nat.and_two_pow_sub_one_eq_mod v.toNat 5
    have hor : 6 <<< 5 + v.toNat % 2 ^ 5 = 6 <<< 5 ||| v.toNat % 2 ^ 5 :=
      Nat.shiftLeft_add_eq_or_of_lt (Nat.mod_lt _ (Nat.two_pow_pos 5)) 6
    rw [setByte0_toNat, hlow]
    exact hor
  · rw [setByte1_toNat, Nat.shiftRight_eq_div_pow]
    exact (Nat.and_two_pow_sub_one_eq_mod (v.toNat / 2 ^ 5) 7).symm

/-- Settles O10: a Set Target's first byte is at least 0xC0, above both GET opcodes, so the first byte gives the code. -/
theorem firstByteNamesTheFrame : Obligations.FirstByteNamesTheFrame := by
  refine ⟨fun v => ?_, ?_, fun _ _ _ => encodeFrame_length, fun op op' v v' f f' h h' hfirst => ?_⟩
  · rw [firstByte_encodeSetTarget]
    exact ⟨setByte0_ne_of_lt (by decide) v, setByte0_ne_of_lt (by decide) v⟩
  · rintro f (rfl | rfl) <;> decide
  · rw [← codeOfFirstByte_encodeFrame h, hfirst, codeOfFirstByte_encodeFrame h']

/-- Settles O11: the test is on the unsigned value, whose quotient by 4096 is the top four bits. -/
theorem checkedRangeTestIsTwelveBits : Obligations.CheckedRangeTestIsTwelveBits :=
  fun v => ⟨inRange_iff v, (inRange_iff v).trans (le_4095_iff_top_eq_zero v)⟩

end Sys2Proof.Proofs
end

section
/-! The edge of each state of an exchange, from the signals its rule names (41_exchange R111 to R123). -/

namespace Sys2Proof.Machine

/-! The registers of a command at its acceptance. -/

/-- Acceptance goes on to the write or ends the exchange (41_exchange R111). -/
theorem acceptedRegs_seq (i : Instr) (r : Regs) : (acceptedRegs i r).seq = .wrReq ∨ (acceptedRegs i r).seq = .resp := by
  cases hf : frameOf i with
  | some f => exact .inl (acceptedRegs_frame hf r).1
  | none => exact .inr (acceptedRegs_immediate hf r).1

/-- A command that ends at acceptance has a status it can raise (60_exceptions R141). -/
theorem acceptedRegs_statusOk {i : Instr} (h : frameOf i = none) (r : Regs) : (acceptedRegs i r).StatusOk := by
  cases i with
  | settgC v =>
    by_cases hv : inRange v <;> simp [frameOf, hv] at h
    simp [acceptedRegs, hv, Regs.StatusOk]
  | op3 _ _ => simp [acceptedRegs, Regs.StatusOk]
  | _ => simp [frameOf] at h

/-! The answered edge of each state in flight; `Regs.exchangeEdge_of_unanswered` has the others. -/

section
variable {r : Regs} {i : Inputs}

theorem Regs.exchangeEdge_of_writeRequest (hs : r.seq = .wrReq) (hready : i.wrReqReady = true) :
    r.exchangeEdge i = { r with seq := .wrWait } := by
  simp [Regs.exchangeEdge, hs, Regs.writeRequestEdge, hready]

theorem Regs.exchangeEdge_of_readRequest (hs : r.seq = .rdReq) (hready : i.rdReqReady = true) :
    r.exchangeEdge i = { r with seq := .rdWait } := by
  simp [Regs.exchangeEdge, hs, Regs.readRequestEdge, hready]

theorem Regs.exchangeEdge_of_result (hs : r.seq = .resp) (hready : i.rspReady = true) :
    r.exchangeEdge i = { r with seq := .idle } := by
  simp [Regs.exchangeEdge, hs, Regs.resultEdge, hready]

/-! The branches of a write completion (R115) and of a read completion (R117). -/

theorem Regs.writeDone_of_error (he : i.wrDoneErr = true) :
    r.writeDone i = { r with rspCauseQ := i.wrDoneCause, rspStatusQ := .writeFailed, seq := .resp } := by
  simp [Regs.writeDone, he, Regs.finish]

theorem Regs.writeDone_of_count_ne (he : i.wrDoneErr = false) (hc : i.wrDoneCount ≠ r.lenQ) :
    r.writeDone i = { r with rspExpectedQ := r.lenQ, rspActualQ := i.wrDoneCount, rspStatusQ := .writeIncomplete,
                             seq := .resp } := by
  simp [Regs.writeDone, he, hc, Regs.finish]

theorem Regs.writeDone_of_full_set (he : i.wrDoneErr = false) (hc : i.wrDoneCount = r.lenQ) (hop : r.opQ = 2) :
    r.writeDone i = { r with rspStatusQ := .okAck, seq := .resp } := by
  simp [Regs.writeDone, he, hc, hop, Regs.finish]

theorem Regs.writeDone_of_full_get (he : i.wrDoneErr = false) (hc : i.wrDoneCount = r.lenQ) (hop : r.opQ ≠ 2) :
    r.writeDone i = { r with seq := .rdReq } := by
  rw [Regs.writeDone, if_neg (by simp [he]), if_neg (not_not.2 hc), if_neg hop]

theorem Regs.readDone_of_error (he : i.rdDoneErr = true) :
    r.readDone i = { r with rspCauseQ := i.rdDoneCause, rspStatusQ := .readFailed, seq := .resp } := by
  simp [Regs.readDone, he, Regs.finish]

theorem Regs.readDone_of_count_ne (he : i.rdDoneErr = false) (hc : i.rdDoneCount ≠ 2) :
    r.readDone i = { r with rspExpectedQ := 2, rspActualQ := i.rdDoneCount, rspStatusQ := .readIncomplete,
                            seq := .resp } := by
  rw [Regs.readDone, if_neg (by simp [he])]
  exact if_pos hc

theorem Regs.readDone_of_two (he : i.rdDoneErr = false) (hc : i.rdDoneCount = 2) :
    r.readDone i = { r with rspValueQ := decodeResponse (firstByte i.rdDoneData) (secondByte i.rdDoneData),
                            rspStatusQ := .okValue, seq := .resp } := by
  simp [Regs.readDone, he, hc, Regs.finish, rspLen]

end

/-! The edge of a command: its acceptance in IDLE, the exchange in flight elsewhere (41_exchange R110, log 1). -/

section
variable {s : State}

theorem exec_of_idle (i : Instr) (h : s.regs.seq = .idle) :
    exec i s = .next { s with regs := acceptedRegs i s.regs } := by
  rw [exec_eq_commandEdge, State.commandEdge, h]

theorem exec_of_busy (i : Instr) (h : s.regs.seq ≠ .idle) :
    exec i s = .next { s with regs := s.regs.exchangeEdge s.inputs } := by
  rw [exec_eq_commandEdge, State.commandEdge_busy _ h]

/-- Without the answer its state waits for, a command in flight changes nothing. -/
theorem exec_of_unanswered (i : Instr) (hs : s.regs.seq ≠ .idle) (h : s.inputs.answers s.regs.seq = false) :
    exec i s = .next s := by
  rw [exec_of_busy i hs, Regs.exchangeEdge_of_unanswered h]

end

end Sys2Proof.Machine
end

section
/-! The register invariant over a step (41_exchange R112, R126 (d); 60_exceptions R141, R148). -/

namespace Sys2Proof.Machine

section
variable {r : Regs}

/-- Cleared fields are clear under every status (R112). -/
theorem Regs.Cleared.fieldsOk (h : r.Cleared) : r.FieldsOk := by
  obtain ⟨hvalue, hexpected, hactual, hcause⟩ := h
  exact ⟨fun _ => hvalue, fun _ _ => ⟨hexpected, hactual⟩, fun _ _ => hcause⟩

/-- A request is never the reserved code's (R122). -/
theorem Regs.RequestOk.opQ_ne_three (h : r.RequestOk) : r.opQ ≠ 3 := by
  rcases h with ⟨h, -⟩ | ⟨h, -⟩ | ⟨h, -⟩ <;> rw [h] <;> decide

/-- A request that is no Set Target is a GET's, one byte long (40_frame_codec R90, R91). -/
theorem Regs.RequestOk.get (h : r.RequestOk) (hop : r.opQ ≠ 2) : (r.opQ = 0 ∨ r.opQ = 1) ∧ r.lenQ = 1 := by
  rcases h with ⟨h, hf⟩ | ⟨h, hf⟩ | ⟨h, -⟩
  · exact ⟨.inl h, congrArg Frame.len hf⟩
  · exact ⟨.inr h, congrArg Frame.len hf⟩
  · exact absurd h hop

/-- In RESP the invariant asks for the fields and the status alone. -/
theorem Regs.inv_of_resp (hs : r.seq = .resp) (hfields : r.FieldsOk) (hstatus : r.StatusOk) : r.Inv where
  fields := hfields
  cleared := by simp [hs]
  request := by simp [hs]
  getOnly := by simp [hs]
  status := fun _ => hstatus

/-- While a request is due or out the invariant asks for cleared fields and the request of the command, a GET's at the read. -/
theorem Regs.inv_of_request (hs : r.seq ≠ .resp) (hcleared : r.Cleared) (hrequest : r.RequestOk)
    (hget : r.seq = .rdReq ∨ r.seq = .rdWait → r.opQ ≠ 2) : r.Inv where
  fields := hcleared.fieldsOk
  cleared := fun _ => hcleared
  request := fun _ => hrequest
  getOnly := fun h => ⟨hrequest, hget h⟩
  status := fun h => absurd h hs

/-- Acceptance establishes the invariant, whatever the registers before it (41_exchange R111). -/
theorem acceptedRegs_inv (i : Instr) (r : Regs) : (acceptedRegs i r).Inv := by
  have hcleared := (acceptedRegs_common i r).2
  cases hf : frameOf i with
  | some f =>
    have hs := (acceptedRegs_frame hf r).1
    exact Regs.inv_of_request (by simp [hs]) hcleared (acceptedRegs_requestOk hf r) (by simp [hs])
  | none => exact Regs.inv_of_resp (acceptedRegs_immediate hf r).1 hcleared.fieldsOk (acceptedRegs_statusOk hf r)

/-- A write completion keeps the invariant: it names the status's own fields, and a full one of a GET goes on to the read (R115). -/
theorem Regs.Inv.writeDone (h : r.Inv) (hs : r.seq = .wrWait) (i : Inputs) : (r.writeDone i).Inv := by
  have hrequest := h.request (.inr hs)
  obtain ⟨hvalue, hexpected, hactual, hcause⟩ := h.cleared (.inr (.inl hs))
  rcases r.writeDone_cases i with ⟨-, e⟩ | ⟨-, hc, e⟩ | ⟨-, -, hop, e⟩ | ⟨-, -, hop, e⟩ <;> rw [e]
  · exact inv_of_resp rfl ⟨fun _ => hvalue, fun _ _ => ⟨hexpected, hactual⟩, by simp⟩ hrequest.opQ_ne_three
  · exact inv_of_resp rfl ⟨fun _ => hvalue, by simp, fun _ _ => hcause⟩ ⟨hrequest.opQ_ne_three, rfl, hc⟩
  · exact inv_of_resp rfl ⟨fun _ => hvalue, fun _ _ => ⟨hexpected, hactual⟩, fun _ _ => hcause⟩ hop
  · exact inv_of_request (by simp) ⟨hvalue, hexpected, hactual, hcause⟩ hrequest fun _ => hop

/-- A read completion keeps the invariant: a value stands with OK_VALUE alone (R117). -/
theorem Regs.Inv.readDone (h : r.Inv) (hs : r.seq = .rdWait) (i : Inputs) : (r.readDone i).Inv := by
  obtain ⟨hrequest, hop⟩ := h.getOnly (.inr hs)
  obtain ⟨hvalue, hexpected, hactual, hcause⟩ := h.cleared (.inr (.inr (.inr hs)))
  have hget := (hrequest.get hop).1
  rcases r.readDone_cases i with ⟨-, e⟩ | ⟨-, hc, e⟩ | ⟨-, -, e⟩ <;> rw [e]
  · exact inv_of_resp rfl ⟨fun _ => hvalue, fun _ _ => ⟨hexpected, hactual⟩, by simp⟩ hget
  · exact inv_of_resp rfl ⟨fun _ => hvalue, by simp, fun _ _ => hcause⟩ ⟨hget, rfl, hc⟩
  · exact inv_of_resp rfl ⟨by simp, fun _ _ => ⟨hexpected, hactual⟩, fun _ _ => hcause⟩ hget

/-- Every edge of the exchange in flight keeps the invariant. -/
theorem Regs.Inv.exchangeEdge (h : r.Inv) (i : Inputs) : (r.exchangeEdge i).Inv := by
  rcases r.exchangeEdge_cases i with e | ⟨hs, -, e⟩ | ⟨hs, -, e⟩ | ⟨hs, -, e⟩ | ⟨hs, -, e⟩ | ⟨-, -, e⟩ <;> rw [e]
  · exact h
  · exact inv_of_request (by simp) (h.cleared (.inl hs)) (h.request (.inl hs)) (by simp)
  · exact h.writeDone hs i
  · obtain ⟨hrequest, hop⟩ := h.getOnly (.inl hs)
    exact inv_of_request (by simp) (h.cleared (.inr (.inr (.inl hs)))) hrequest fun _ => hop
  · exact h.readDone hs i
  · exact ⟨⟨h.fields.value, h.fields.counts, h.fields.cause⟩, by simp, by simp, by simp, by simp⟩

/-- The block's edge keeps the invariant, and a reset or an acceptance establishes it. -/
theorem State.nextRegs_inv {s : State} (h : s.regs.Inv) : s.nextRegs.Inv := by
  rcases s.nextRegs_cases with ⟨-, e⟩ | ⟨-, -, -, e⟩ | ⟨-, -, -, e⟩ | ⟨-, -, e⟩ <;> rw [e]
  · exact Regs.reset_inv
  · exact h
  · exact acceptedRegs_inv _ _
  · exact h.exchangeEdge _

end

end Sys2Proof.Machine

namespace Sys2Proof.Proofs

open Sys2Proof.Machine

/-- Settles O44: reset, acceptance and each edge of the exchange in flight. -/
theorem registerInvariantIsKept : Obligations.RegisterInvariantIsKept := by
  intro s t hstep h
  rw [step_regs hstep]
  exact State.nextRegs_inv h

end Sys2Proof.Proofs
end

section
/-! The outstanding requests over a step without a reset in flight (41_exchange R126 (b), 20_memory R53). -/

namespace Sys2Proof.Machine

/-- The requests the block waits for: its own write in WR_WAIT, its read in RD_WAIT (R126 (b)). -/
def Regs.awaited (r : Regs) : List ChannelRequest :=
  match r.seq with
  | .wrWait => [r.outputs.writeRequest]
  | .rdWait => [.read 2]
  | _ => []

theorem State.channelInStep_iff (s : State) : s.ChannelInStep ↔ s.channel.outstanding = s.regs.awaited := by
  unfold State.ChannelInStep Regs.awaited
  cases s.regs.seq <;> rfl

theorem Regs.awaited_of_not_waiting {r : Regs} (hw : r.seq ≠ .wrWait) (hr : r.seq ≠ .rdWait) : r.awaited = [] := by
  unfold Regs.awaited
  split <;> simp_all

section
variable {s : State}

theorem State.requestTransferred_of_reset (h : s.inputs.rst = true) : s.requestTransferred = none := by
  simp [State.requestTransferred, State.writeRequestTransfers, State.readRequestTransfers, h]

theorem State.requestTransferred_of_unpresented (hw : s.regs.seq ≠ .wrReq) (hr : s.regs.seq ≠ .rdReq) :
    s.requestTransferred = none := by
  rcases s.requestTransferred_cases with e | ⟨hs, -⟩ | ⟨hs, -⟩
  · exact e
  · exact absurd hs hw
  · exact absurd hs hr

/-- A request presented and not taken does not transfer (41_exchange R113, R116). -/
theorem State.requestTransferred_of_unanswered (h : s.inputs.answers s.regs.seq = false) : s.requestTransferred = none := by
  rcases s.requestTransferred_cases with e | ⟨hs, -, hready, -⟩ | ⟨hs, -, hready, -⟩
  · exact e
  all_goals simp [hs, Inputs.answers, hready] at h

theorem State.requestTransferred_of_writeReady (hs : s.regs.seq = .wrReq) (hr : s.inputs.rst = false)
    (hready : s.inputs.wrReqReady = true) : s.requestTransferred = some s.regs.outputs.writeRequest := by
  simp [State.requestTransferred, s.writeRequestTransfers_iff.2 ⟨hr, (Regs.outputs_wrReqValid_iff _).2 hs, hready⟩]

theorem State.requestTransferred_of_readReady (hs : s.regs.seq = .rdReq) (hr : s.inputs.rst = false)
    (hready : s.inputs.rdReqReady = true) : s.requestTransferred = some (.read 2) := by
  have hwrite : s.writeRequestTransfers = false := by simp [State.writeRequestTransfers, Regs.outputs, hs]
  simp [State.requestTransferred, hwrite,
    s.readRequestTransfers_iff.2 ⟨hr, (Regs.outputs_rdReqValid_iff _).2 hs, hready⟩, Outputs.readRequest, Regs.outputs, rspLen]

/-- With nothing outstanding a completion is stray and takes nothing off: only the request taken is outstanding after the edge. -/
theorem State.channelEdge_outstanding_of_nil (h : s.channel.outstanding = []) :
    s.channelEdge.outstanding = s.requestTransferred.toList := by
  simp [State.channelEdge_outstanding, h]

/-- The one write outstanding stays so until a write completion; a stray read completion takes nothing off. -/
theorem State.channelEdge_outstanding_of_write {len : BitVec 2} {bytes : List Byte}
    (h : s.channel.outstanding = [.write len bytes]) (hnone : s.requestTransferred = none) :
    s.channelEdge.outstanding = if s.inputs.wrDoneValid then [] else [.write len bytes] := by
  cases hv : s.inputs.wrDoneValid <;>
    simp [State.channelEdge_outstanding, h, hnone, hv, List.eraseP_cons, ChannelRequest.isWrite, ChannelRequest.isRead]

/-- The one read outstanding stays so until a read completion. -/
theorem State.channelEdge_outstanding_of_read {m : BitVec 2} (h : s.channel.outstanding = [.read m])
    (hnone : s.requestTransferred = none) : s.channelEdge.outstanding = if s.inputs.rdDoneValid then [] else [.read m] := by
  simp [State.channelEdge_outstanding, h, hnone, List.eraseP_cons, ChannelRequest.isWrite, ChannelRequest.isRead]

/-- Without the answer its state waits for, the block's request stays as outstanding as it is. -/
theorem State.channelEdge_outstanding_of_unanswered (h : s.channel.outstanding = s.regs.awaited)
    (ha : s.inputs.answers s.regs.seq = false) : s.channelEdge.outstanding = s.regs.awaited := by
  have hnone := State.requestTransferred_of_unanswered ha
  unfold Regs.awaited at h ⊢
  cases hs : s.regs.seq <;> simp only [hs] at h ha ⊢
  case wrWait => exact (State.channelEdge_outstanding_of_write h hnone).trans (if_neg (Bool.eq_false_iff.1 ha))
  case rdWait => exact (State.channelEdge_outstanding_of_read h hnone).trans (if_neg (Bool.eq_false_iff.1 ha))
  all_goals rw [State.channelEdge_outstanding_of_nil h, hnone]; rfl

/-- From a state that waits for no completion, an answer leaves the block waiting for the request taken, if one is. -/
theorem State.requestTransferred_eq_awaited (hw : s.regs.seq ≠ .wrWait) (hd : s.regs.seq ≠ .rdWait) (hr : s.inputs.rst = false)
    (ha : s.inputs.answers s.regs.seq = true) : s.requestTransferred.toList = s.nextRegs.awaited := by
  cases hs : s.regs.seq <;> rw [hs] at ha
  case wrWait => exact absurd hs hw
  case rdWait => exact absurd hs hd
  case idle =>
    rw [State.requestTransferred_of_unpresented (by simp [hs]) (by simp [hs]),
      State.nextRegs_of_command (s.commandTransfers_iff.2 ⟨hr, ha, (Regs.outputs_cmdReady_iff _).2 hs⟩)]
    rcases acceptedRegs_seq (decodeWord s.inputs.commandWord) s.regs with e | e <;>
      rw [Regs.awaited_of_not_waiting (by simp [e]) (by simp [e])] <;> rfl
  case wrReq =>
    rw [State.requestTransferred_of_writeReady hs hr ha, State.nextRegs_of_busy hr (by simp [hs]),
      Regs.exchangeEdge_of_writeRequest hs ha]
    rfl
  case rdReq =>
    rw [State.requestTransferred_of_readReady hs hr ha, State.nextRegs_of_busy hr (by simp [hs]),
      Regs.exchangeEdge_of_readRequest hs ha]
    rfl
  case resp =>
    rw [State.requestTransferred_of_unpresented (by simp [hs]) (by simp [hs]), State.nextRegs_of_busy hr (by simp [hs]),
      Regs.exchangeEdge_of_result hs ha]
    rfl

/-- The answer moves the request with the block: a request taken is awaited, and a completion ends the wait for its own. -/
theorem State.channelEdge_outstanding_of_answered (h : s.channel.outstanding = s.regs.awaited) (hr : s.inputs.rst = false)
    (ha : s.inputs.answers s.regs.seq = true) : s.channelEdge.outstanding = s.nextRegs.awaited := by
  by_cases hw : s.regs.seq = .wrWait
  · have hv : s.inputs.wrDoneValid = true := by simpa [hw, Inputs.answers] using ha
    simp only [Regs.awaited, hw] at h
    rw [State.channelEdge_outstanding_of_write h (State.requestTransferred_of_unpresented (by simp [hw]) (by simp [hw])),
      if_pos hv, State.nextRegs_of_busy hr (by simp [hw]), Regs.exchangeEdge_of_writeDone hw hv]
    rcases s.regs.writeDone_seq s.inputs with e | e <;> rw [Regs.awaited_of_not_waiting (by simp [e]) (by simp [e])]
  · by_cases hd : s.regs.seq = .rdWait
    · have hv : s.inputs.rdDoneValid = true := by simpa [hd, Inputs.answers] using ha
      simp only [Regs.awaited, hd] at h
      rw [State.channelEdge_outstanding_of_read h (State.requestTransferred_of_unpresented (by simp [hd]) (by simp [hd])),
        if_pos hv, State.nextRegs_of_busy hr (by simp [hd]), Regs.exchangeEdge_of_readDone hd hv,
        Regs.awaited_of_not_waiting (by simp [Regs.readDone_seq]) (by simp [Regs.readDone_seq])]
    · rw [Regs.awaited_of_not_waiting hw hd] at h
      rw [State.channelEdge_outstanding_of_nil h, State.requestTransferred_eq_awaited hw hd hr ha]

end

end Sys2Proof.Machine

namespace Sys2Proof.Proofs

open Sys2Proof.Machine

/-- Settles O48: a reset finds nothing outstanding, an unanswered edge moves nothing, and an answer moves block and channel together. -/
theorem channelStaysInStep : Obligations.ChannelStaysInStep := by
  intro s t hstep hreset h
  rw [State.channelInStep_iff] at h ⊢
  rw [step_channel hstep, step_regs hstep]
  cases hr : s.inputs.rst with
  | true =>
    obtain ⟨hw, hd⟩ := hreset hr
    rw [Regs.awaited_of_not_waiting hw hd] at h
    rw [State.channelEdge_outstanding_of_nil h, State.requestTransferred_of_reset hr, State.nextRegs, if_pos hr]
    rfl
  | false =>
    cases ha : s.inputs.answers s.regs.seq with
    | false => rw [State.nextRegs_of_unanswered hr ha, State.channelEdge_outstanding_of_unanswered h ha]
    | true => exact State.channelEdge_outstanding_of_answered h hr ha

end Sys2Proof.Proofs
end

section
/-! The clock level follows the exchange level, edge by edge (41_exchange R118 to R122, R125 to R127). -/

namespace Sys2Proof.Machine

/-! The port event of an edge without reset, by the state (the last column of R125). -/

/-- The event of each state's answer. -/
def Regs.edgeEvent (r : Regs) (i : Inputs) : Option PortEvent :=
  match r.seq with
  | .idle => if i.cmdValid then some (.command i.commandWord) else none
  | .wrReq => if i.wrReqReady then some (.request r.outputs.writeRequest) else none
  | .wrWait => i.writeCompletion.map .writeDone
  | .rdReq => if i.rdReqReady then some (.request (.read 2)) else none
  | .rdWait => i.readCompletion.map .readDone
  | .resp => if i.rspReady then some (.result r.opQ r.result) else none

theorem State.portEvent_of_reset {s : State} (hr : s.inputs.rst = true) : s.portEvent = some .reset := by
  simp [State.portEvent, hr]

/-- Outside reset the state alone tells which of the events can happen (60_exceptions R151). -/
theorem State.portEvent_eq_edgeEvent {s : State} (hr : s.inputs.rst = false) : s.portEvent = s.regs.edgeEvent s.inputs := by
  cases hs : s.regs.seq <;>
    simp [State.portEvent, State.commandTransfers, State.writeRequestTransfers, State.consumesWrite,
      State.readRequestTransfers, State.consumesRead, State.resultTransfers, Regs.edgeEvent, Regs.outputs,
      Outputs.readRequest, rspLen, hr, hs]
  case wrWait => cases hv : s.inputs.wrDoneValid <;> simp [Inputs.writeCompletion, hv]
  case rdWait => cases hv : s.inputs.rdDoneValid <;> simp [Inputs.readCompletion, hv]

theorem Regs.edgeEvent_of_unanswered {r : Regs} {i : Inputs} (h : i.answers r.seq = false) : r.edgeEvent i = none := by
  cases hs : r.seq <;> simp [hs, Inputs.answers] at h <;>
    simp [Regs.edgeEvent, hs, h, Inputs.writeCompletion, Inputs.readCompletion]

theorem Inputs.wrDoneValid_of_completion {i : Inputs} {w : WriteCompletion} (h : i.writeCompletion = some w) :
    i.wrDoneValid = true := by
  by_contra hv
  simp [Inputs.writeCompletion, hv] at h

theorem Inputs.rdDoneValid_of_completion {i : Inputs} {c : ReadCompletion} (h : i.readCompletion = some c) :
    i.rdDoneValid = true := by
  by_contra hv
  simp [Inputs.readCompletion, hv] at h

/-! Where the registers stand in each phase, as an equivalence. -/

section
variable {i : Instr} {r : Regs}

@[simp] theorem Phase.agrees_idle : Phase.idle.Agrees r ↔ r.seq = .idle := by
  cases hs : r.seq <;> simp [Phase.Agrees, hs]

@[simp] theorem Phase.agrees_writeDue : (Phase.writeDue i).Agrees r ↔
    r.seq = .wrReq ∧ r.opQ = i.op ∧ frameOf i = some ⟨r.lenQ, r.frameQ⟩ ∧ r.Cleared := by
  cases hs : r.seq <;> simp [Phase.Agrees, hs]

@[simp] theorem Phase.agrees_writeOut : (Phase.writeOut i).Agrees r ↔
    r.seq = .wrWait ∧ r.opQ = i.op ∧ frameOf i = some ⟨r.lenQ, r.frameQ⟩ ∧ r.Cleared := by
  cases hs : r.seq <;> simp [Phase.Agrees, hs]

@[simp] theorem Phase.agrees_readDue : (Phase.readDue i).Agrees r ↔
    r.seq = .rdReq ∧ r.opQ = i.op ∧ frameOf i = some ⟨r.lenQ, r.frameQ⟩ ∧ i.op ≠ 2 ∧ r.Cleared := by
  cases hs : r.seq <;> simp [Phase.Agrees, hs]

@[simp] theorem Phase.agrees_readOut : (Phase.readOut i).Agrees r ↔
    r.seq = .rdWait ∧ r.opQ = i.op ∧ frameOf i = some ⟨r.lenQ, r.frameQ⟩ ∧ i.op ≠ 2 ∧ r.Cleared := by
  cases hs : r.seq <;> simp [Phase.Agrees, hs]

@[simp] theorem Phase.agrees_resultDue {res : Result} : (Phase.resultDue i res).Agrees r ↔
    r.seq = .resp ∧ r.opQ = i.op ∧ r.result = res := by
  cases hs : r.seq <;> simp [Phase.Agrees, hs]

end

/-! One edge of each phase. -/

/-- At this edge the exchange level goes from `p` to `p'` by the event `e`, and the registers go with it. -/
structure State.FollowsPhase (s : State) (p : Phase) (e : PortEvent) (p' : Phase) : Prop where
  event : s.portEvent = some e
  allowed : p.next e = some p'
  agrees : p'.Agrees s.nextRegs

/-- The phase that a write completion leads to: the read of a GET, or the result. -/
def Phase.afterWrite (i : Instr) (w : WriteCompletion) : Phase :=
  if (exchange i w .noByte).requests.length = 2 then .readDue i else .resultDue i (exchange i w .noByte).result

theorem Phase.afterWrite_of_one {i : Instr} {w : WriteCompletion} {q : ChannelRequest} {res : Result}
    (h : exchange i w .noByte = ⟨[q], res⟩) : Phase.afterWrite i w = .resultDue i res := by
  simp [Phase.afterWrite, h]

theorem Phase.afterWrite_of_two {i : Instr} {w : WriteCompletion} {q q' : ChannelRequest} {res : Result}
    (h : exchange i w .noByte = ⟨[q, q'], res⟩) : Phase.afterWrite i w = .readDue i := by
  simp [Phase.afterWrite, h]

section
variable {s : State} {i : Instr} (hr : s.inputs.rst = false)
include hr

/-- A command that sends a frame goes on to its write (41_exchange R111). -/
theorem State.followsPhase_command {f : Frame} (hp : Phase.idle.Agrees s.regs) (ha : s.inputs.cmdValid = true)
    (hi : decodeWord s.inputs.commandWord = i) (hf : frameOf i = some f) :
    s.FollowsPhase .idle (.command s.inputs.commandWord) (.writeDue i) := by
  have hc := s.commandTransfers_iff.2 ⟨hr, ha, (Regs.outputs_cmdReady_iff _).2 (Phase.agrees_idle.1 hp)⟩
  obtain ⟨hseq, hlen, hframe, -⟩ := acceptedRegs_frame hf s.regs
  obtain ⟨hop, hcleared⟩ := acceptedRegs_common i s.regs
  refine ⟨State.portEvent_of_command hc, by simp [Phase.next, hi, hf], ?_⟩
  rw [State.nextRegs_of_command hc, hi, Phase.agrees_writeDue, hlen, hframe]
  exact ⟨hseq, hop, hf, hcleared⟩

/-- A command that sends none has its result at once (R111, R122). -/
theorem State.followsPhase_command_immediate (hp : Phase.idle.Agrees s.regs) (ha : s.inputs.cmdValid = true)
    (hi : decodeWord s.inputs.commandWord = i) (hf : frameOf i = none) :
    s.FollowsPhase .idle (.command s.inputs.commandWord) (.resultDue i (exchange i (.count 0) .noByte).result) := by
  have hc := s.commandTransfers_iff.2 ⟨hr, ha, (Regs.outputs_cmdReady_iff _).2 (Phase.agrees_idle.1 hp)⟩
  obtain ⟨hseq, hresult⟩ := acceptedRegs_immediate hf s.regs
  refine ⟨State.portEvent_of_command hc, by simp [Phase.next, hi, hf], ?_⟩
  rw [State.nextRegs_of_command hc, hi, Phase.agrees_resultDue]
  exact ⟨hseq, (acceptedRegs_common i s.regs).1, hresult⟩

/-- The write request is the command's frame (R113). -/
theorem State.followsPhase_writeRequest {f : Frame} (hp : (Phase.writeDue i).Agrees s.regs) (hf : frameOf i = some f)
    (ha : s.inputs.wrReqReady = true) :
    s.FollowsPhase (.writeDue i) (.request (.write f.len (frameBytes f.len f.data))) (.writeOut i) := by
  obtain ⟨hs, hop, hf', hcleared⟩ := Phase.agrees_writeDue.1 hp
  obtain rfl : f = ⟨s.regs.lenQ, s.regs.frameQ⟩ := Option.some.inj (hf.symm.trans hf')
  refine ⟨?_, by simp [Phase.next, hf], ?_⟩
  · rw [State.portEvent_eq_edgeEvent hr, Regs.edgeEvent, hs, if_pos ha]
    rfl
  · rw [State.nextRegs_of_busy hr (by simp [hs]), Regs.exchangeEdge_of_writeRequest hs ha, Phase.agrees_writeOut]
    exact ⟨rfl, hop, hf, hcleared⟩

/-- The write completion ends the exchange or goes on to the read, as the command's rule says (R115, R118 to R121). -/
theorem State.followsPhase_writeDone {w : WriteCompletion} (hp : (Phase.writeOut i).Agrees s.regs)
    (hw : s.inputs.writeCompletion = some w) : s.FollowsPhase (.writeOut i) (.writeDone w) (.afterWrite i w) := by
  obtain ⟨hs, hop, hf, hcleared⟩ := Phase.agrees_writeOut.1 hp
  have hv := Inputs.wrDoneValid_of_completion hw
  refine ⟨?_, ?_, ?_⟩
  · rw [State.portEvent_eq_edgeEvent hr, Regs.edgeEvent, hs, hw]
    rfl
  · rw [Phase.next, Phase.afterWrite]
    split <;> rfl
  · rw [State.nextRegs_of_busy hr (by simp [hs]), Regs.exchangeEdge_of_writeDone hs hv]
    rcases s.regs.writeDone_cases s.inputs with ⟨he, e⟩ | ⟨he, hc, e⟩ | ⟨he, hc, hset, e⟩ | ⟨he, hc, hget, e⟩ <;> rw [e]
    · obtain rfl := Option.some.inj ((Inputs.writeCompletion_of_error hv he).symm.trans hw)
      rw [Phase.afterWrite_of_one (exchange_error hf _ _), Phase.agrees_resultDue]
      exact ⟨rfl, hop, rfl⟩
    all_goals obtain rfl := Option.some.inj ((Inputs.writeCompletion_of_count hv he).symm.trans hw)
    · rw [Phase.afterWrite_of_one (exchange_incomplete hf hc _), Phase.agrees_resultDue]
      exact ⟨rfl, hop, rfl⟩
    · rw [hc, Phase.afterWrite_of_one (exchange_ack hf (hop.symm.trans hset) _), Phase.agrees_resultDue]
      exact ⟨rfl, hop, rfl⟩
    · obtain ⟨hlen, hread⟩ := exchange_read hf (hop ▸ hget) .noByte
      rw [hc.trans hlen, Phase.afterWrite_of_two hread, Phase.agrees_readDue]
      exact ⟨rfl, hop, hf, hop ▸ hget, hcleared⟩

/-- The one read of a GET (R116). -/
theorem State.followsPhase_readRequest (hp : (Phase.readDue i).Agrees s.regs) (ha : s.inputs.rdReqReady = true) :
    s.FollowsPhase (.readDue i) (.request (.read 2)) (.readOut i) := by
  obtain ⟨hs, hfields⟩ := Phase.agrees_readDue.1 hp
  refine ⟨?_, by simp [Phase.next], ?_⟩
  · rw [State.portEvent_eq_edgeEvent hr, Regs.edgeEvent, hs, if_pos ha]
  · rw [State.nextRegs_of_busy hr (by simp [hs]), Regs.exchangeEdge_of_readRequest hs ha, Phase.agrees_readOut]
    exact ⟨rfl, hfields⟩

/-- The read completion gives the result of the command's rule (R117 to R119). -/
theorem State.followsPhase_readDone {c : ReadCompletion} (hp : (Phase.readOut i).Agrees s.regs)
    (hc : s.inputs.readCompletion = some c) :
    s.FollowsPhase (.readOut i) (.readDone c) (.resultDue i (exchange i (.count 1) c).result) := by
  obtain ⟨hs, hop, hf, hget, -⟩ := Phase.agrees_readOut.1 hp
  have hv := Inputs.rdDoneValid_of_completion hc
  refine ⟨?_, by simp [Phase.next], ?_⟩
  · rw [State.portEvent_eq_edgeEvent hr, Regs.edgeEvent, hs, hc]
    rfl
  · rw [State.nextRegs_of_busy hr (by simp [hs]), Phase.agrees_resultDue, (exchange_read hf hget c).2,
      (Regs.exchangeEdge_keeps_request _ _).1, Regs.exchangeEdge_of_readDone hs hv]
    exact ⟨s.regs.readDone_seq s.inputs, hop, Regs.readDone_result hc⟩

/-- The result that transfers is the one due (R123). -/
theorem State.followsPhase_result {res : Result} (hp : (Phase.resultDue i res).Agrees s.regs)
    (ha : s.inputs.rspReady = true) : s.FollowsPhase (.resultDue i res) (.result i.op res) .idle := by
  obtain ⟨hs, hop, hres⟩ := Phase.agrees_resultDue.1 hp
  refine ⟨?_, by simp [Phase.next], ?_⟩
  · rw [State.portEvent_eq_edgeEvent hr, Regs.edgeEvent, hs, if_pos ha, hop, hres]
  · rw [State.nextRegs_of_busy hr (by simp [hs]), Regs.exchangeEdge_of_result hs ha, Phase.agrees_idle]

/-- In every phase the answer is an event that the exchange level allows there. -/
theorem State.followsPhase_of_answered {p : Phase} (hp : p.Agrees s.regs) (ha : s.inputs.answers s.regs.seq = true) :
    ∃ e p', s.FollowsPhase p e p' := by
  cases p with
  | idle =>
    rw [Phase.agrees_idle.1 hp] at ha
    cases hf : frameOf (decodeWord s.inputs.commandWord) with
    | some f => exact ⟨_, _, State.followsPhase_command hr hp ha rfl hf⟩
    | none => exact ⟨_, _, State.followsPhase_command_immediate hr hp ha rfl hf⟩
  | writeDue i =>
    obtain ⟨hs, -, hf, -⟩ := Phase.agrees_writeDue.1 hp
    rw [hs] at ha
    exact ⟨_, _, State.followsPhase_writeRequest hr hp hf ha⟩
  | writeOut i =>
    rw [(Phase.agrees_writeOut.1 hp).1] at ha
    exact ⟨_, _, State.followsPhase_writeDone hr hp (if_pos ha)⟩
  | readDue i =>
    rw [(Phase.agrees_readDue.1 hp).1] at ha
    exact ⟨_, _, State.followsPhase_readRequest hr hp ha⟩
  | readOut i =>
    rw [(Phase.agrees_readOut.1 hp).1] at ha
    exact ⟨_, _, State.followsPhase_readDone hr hp (if_pos ha)⟩
  | resultDue i res =>
    rw [(Phase.agrees_resultDue.1 hp).1] at ha
    exact ⟨_, _, State.followsPhase_result hr hp ha⟩

end

/-- A reset ends any phase (70_reset R171). -/
theorem State.followsPhase_reset {s : State} (hr : s.inputs.rst = true) (p : Phase) : s.FollowsPhase p .reset .idle :=
  ⟨State.portEvent_of_reset hr, by cases p <;> rfl, by simp [State.nextRegs, hr]⟩

/-! The trace over an edge (R127). -/

theorem replay_append_singleton {trace : List PortEvent} {p : Phase} (h : replay trace = some p) (e : PortEvent) :
    replay (trace ++ [e]) = p.next e := by
  rw [replay] at h
  rw [replay, List.foldl_append, h]
  rfl

theorem step_trace {s t : State} (h : step s = .next t) : t.trace = s.trace ++ s.portEvent.toList := by
  obtain ⟨-, rfl⟩ := step_inv h
  rfl

/-- An edge that follows the phase of the trace before it refines the exchange level. -/
theorem State.FollowsPhase.refines {s t : State} {p p' : Phase} {e : PortEvent} (h : s.FollowsPhase p e p')
    (hp : replay s.trace = some p) (hstep : step s = .next t) : t.Refines := by
  refine ⟨p', ?_, step_regs hstep ▸ h.agrees⟩
  rw [step_trace hstep, h.event, ← h.allowed]
  exact replay_append_singleton hp e

end Sys2Proof.Machine

namespace Sys2Proof.Proofs

open Sys2Proof.Machine

/-- Settles O47: a reset and an answer follow the phase the trace tells; any other edge moves neither the trace nor the registers. -/
theorem clockLevelRefinesExchangeLevel : Obligations.ClockLevelRefinesExchangeLevel := by
  intro s t hstep hrefines
  obtain ⟨p, hp, hagrees⟩ := hrefines
  cases hr : s.inputs.rst with
  | true => exact (State.followsPhase_reset hr p).refines hp hstep
  | false =>
    cases ha : s.inputs.answers s.regs.seq with
    | true =>
      obtain ⟨e, p', h⟩ := State.followsPhase_of_answered hr hagrees ha
      exact h.refines hp hstep
    | false =>
      refine ⟨p, ?_, ?_⟩
      · rw [step_trace hstep, State.portEvent_eq_edgeEvent hr, Regs.edgeEvent_of_unanswered ha]
        simpa using hp
      · rwa [step_regs hstep, State.nextRegs_of_unanswered hr ha]

end Sys2Proof.Proofs
end

section
/-! A served exchange, phase by phase (41_exchange R127, 70_reset R183). -/

namespace Sys2Proof.Machine

theorem State.runsTo_add {s t u : State} {k m : Nat} (h : s.runsTo k t) (hu : t.runsTo m u) : s.runsTo (k + m) u := by
  induction k generalizing s with
  | zero =>
    obtain rfl := State.runsTo_zero_iff.1 h
    rwa [Nat.zero_add]
  | succ k ih =>
    obtain ⟨s', hstep, hrun⟩ := State.runsTo_succ_iff.1 h
    rw [Nat.succ_add]
    exact State.runsTo_succ hstep (ih hrun)

/-- From `s` the script's next samples are `samples`, and the run over them has the port events `events` and ends in `t`. -/
structure State.Passes (s : State) (samples : List Inputs) (events : List PortEvent) (t : State) : Prop where
  run : s.runsTo samples.length t
  env : s.env = samples ++ t.env
  trace : t.trace = s.trace ++ events

theorem State.Passes.trans {s t u : State} {samples samples' : List Inputs} {events events' : List PortEvent}
    (h : s.Passes samples events t) (h' : t.Passes samples' events' u) :
    s.Passes (samples ++ samples') (events ++ events') u where
  run := by rw [List.length_append]; exact State.runsTo_add h.run h'.run
  env := by rw [h.env, h'.env, List.append_assoc]
  trace := by rw [h'.trace, h.trace, List.append_assoc]

theorem State.Passes.env_eq {s t : State} {samples rest : List Inputs} {events : List PortEvent}
    (h : s.Passes samples events t) (henv : s.env = samples ++ rest) : t.env = rest :=
  List.append_cancel_left (h.env.symm.trans henv)

/-- Over samples without the answer its state waits for, the block keeps its registers and has no port event (R183). -/
theorem State.passes_unanswered {s : State} {waits rest : List Inputs} (henv : s.env = waits ++ rest)
    (hw : ∀ i ∈ waits, i.undisturbed ∧ i.answers s.regs.seq = false) : ∃ t, s.Passes waits [] t ∧ t.regs = s.regs := by
  induction waits generalizing s with
  | nil => exact ⟨s, ⟨State.runsTo_zero_iff.2 rfl, rfl, (List.append_nil _).symm⟩, rfl⟩
  | cons i waits ih =>
    have hin : s.inputs = i := s.inputs_cons i _ henv
    obtain ⟨hu, ha⟩ := hw i List.mem_cons_self
    rw [← hin] at hu ha
    have hevent : s.portEvent = none := by
      rw [State.portEvent_eq_edgeEvent hu.1, Regs.edgeEvent_of_unanswered ha]
    have htail : (s.advance s).env = waits ++ rest := by rw [State.advance_env, henv]; rfl
    obtain ⟨t, ht, hregs⟩ := ih htail fun j hj => hw j (List.mem_cons_of_mem i hj)
    refine ⟨t, ⟨State.runsTo_succ (step_of_unanswered hu ha) ht.run, ?_, ?_⟩, hregs⟩
    · rw [henv, ht.env_eq htail]
    · rw [ht.trace, State.advance_trace, hevent]; simp

/-- One phase served: the samples that make it wait, and the one that answers. -/
theorem State.passes_phase {s : State} {p p' : Phase} {e : PortEvent} {waits rest : List Inputs} {a : Inputs}
    (henv : s.env = waits ++ [a] ++ rest) (hw : ∀ i ∈ waits, i.undisturbed ∧ i.answers s.regs.seq = false)
    (ha : a.undisturbed) (hfollows : ∀ u : State, u.regs = s.regs → u.inputs = a → u.FollowsPhase p e p') :
    ∃ t, s.Passes (waits ++ [a]) [e] t ∧ p'.Agrees t.regs := by
  rw [List.append_assoc] at henv
  obtain ⟨u, hwait, hregs⟩ := State.passes_unanswered henv hw
  have huenv : u.env = a :: rest := hwait.env_eq henv
  have hin : u.inputs = a := u.inputs_cons a rest huenv
  obtain ⟨hevent, -, hagrees⟩ := hfollows u hregs hin
  have hstep := step_eq u (State.brokenPremise_of_undisturbed (hin ▸ ha))
  have hanswer : u.Passes [a] [e] (u.advance { u with regs := u.nextRegs }) := by
    refine ⟨State.runsTo_succ hstep (State.runsTo_zero_iff.2 rfl), ?_, ?_⟩
    · rw [State.advance_env, huenv]; rfl
    · rw [State.advance_trace, hevent]; rfl
  exact ⟨_, hwait.trans hanswer, hagrees⟩

/-! The parts of a service, and what the block does over each. -/

/-- The samples that serve the write. -/
def Service.writePart (v : Service) : List Inputs :=
  v.writeReadyWait ++ [v.writeReady] ++ (v.writeDoneWait ++ [v.writeDone])

/-- The samples that serve the read. -/
def Service.readPart (v : Service) : List Inputs :=
  v.readReadyWait ++ [v.readReady] ++ (v.readDoneWait ++ [v.readDone])

/-- The samples that serve the result. -/
def Service.resultPart (v : Service) : List Inputs := v.resultWait ++ [v.takeResult]

theorem Service.samples_none (v : Service) : v.samples [] = [v.command] ++ v.resultPart := by
  simp [Service.samples, Service.resultPart]

theorem Service.samples_one (v : Service) (q : ChannelRequest) :
    v.samples [q] = [v.command] ++ (v.writePart ++ v.resultPart) := by
  simp [Service.samples, Service.writePart, Service.resultPart]

theorem Service.samples_two (v : Service) (q q' : ChannelRequest) :
    v.samples [q, q'] = [v.command] ++ (v.writePart ++ (v.readPart ++ v.resultPart)) := by
  simp [Service.samples, Service.writePart, Service.readPart, Service.resultPart]

theorem exchangeEvents_none {cw : CommandWord} {w : WriteCompletion} {r : ReadCompletion} {res : Result}
    (h : exchange (decodeWord cw) w r = ⟨[], res⟩) :
    exchangeEvents cw w r = [PortEvent.command cw] ++ [PortEvent.result (decodeWord cw).op res] := by
  simp [exchangeEvents, h]

theorem exchangeEvents_one {cw : CommandWord} {w : WriteCompletion} {r : ReadCompletion} {q : ChannelRequest} {res : Result}
    (h : exchange (decodeWord cw) w r = ⟨[q], res⟩) :
    exchangeEvents cw w r =
      [PortEvent.command cw] ++ ([PortEvent.request q, .writeDone w] ++ [PortEvent.result (decodeWord cw).op res]) := by
  simp [exchangeEvents, h]

theorem exchangeEvents_two {cw : CommandWord} {w : WriteCompletion} {r : ReadCompletion} {q q' : ChannelRequest}
    {res : Result} (h : exchange (decodeWord cw) w r = ⟨[q, q'], res⟩) :
    exchangeEvents cw w r = [PortEvent.command cw] ++ ([PortEvent.request q, .writeDone w] ++
      ([PortEvent.request q', .readDone r] ++ [PortEvent.result (decodeWord cw).op res])) := by
  simp [exchangeEvents, h]

/-- A command that sends a frame does one of two things: it ends with its write, whatever a read would give, or it is a GET whose
full write leads to the read (R118 to R121). -/
theorem exchange_of_frame {i : Instr} {f : Frame} (hf : frameOf i = some f) (w : WriteCompletion) :
    (∃ res, ∀ r, exchange i w r = ⟨[.write f.len (frameBytes f.len f.data)], res⟩) ∨
    (w = .count 1 ∧ ∀ r, exchange i w r = ⟨[.write f.len (frameBytes f.len f.data), .read 2], readResult r⟩) := by
  cases w with
  | error c => exact .inl ⟨_, exchange_error hf c⟩
  | count k =>
    by_cases hk : k = f.len
    · subst hk
      by_cases hop : i.op = 2
      · exact .inl ⟨_, exchange_ack hf hop⟩
      · have hlen := (exchange_read hf hop .noByte).1
        rw [hlen]
        exact .inr ⟨rfl, fun r => hlen ▸ (exchange_read hf hop r).2⟩
    · exact .inl ⟨_, exchange_incomplete hf hk⟩

section
variable {s : State} {v : Service} {i : Instr} {f : Frame} {w : WriteCompletion} {r : ReadCompletion} {rest : List Inputs}
  (hv : v.Ok)
include hv

theorem Service.Ok.passes_command (hs : s.regs.seq = .idle) (henv : s.env = [v.command] ++ rest)
    (hf : frameOf (decodeWord v.command.commandWord) = some f) :
    ∃ t, s.Passes [v.command] [.command v.command.commandWord] t ∧
      (Phase.writeDue (decodeWord v.command.commandWord)).Agrees t.regs := by
  obtain ⟨hu, hc⟩ := hv.command
  refine State.passes_phase (p := .idle) (waits := []) henv (by simp) hu fun u hregs hin => ?_
  rw [← hin] at hu hc hf ⊢
  exact State.followsPhase_command hu.1 (Phase.agrees_idle.2 (hregs ▸ hs)) hc rfl hf

theorem Service.Ok.passes_command_immediate (hs : s.regs.seq = .idle) (henv : s.env = [v.command] ++ rest)
    (hf : frameOf (decodeWord v.command.commandWord) = none) :
    ∃ t, s.Passes [v.command] [.command v.command.commandWord] t ∧
      (Phase.resultDue (decodeWord v.command.commandWord)
        (exchange (decodeWord v.command.commandWord) (.count 0) .noByte).result).Agrees t.regs := by
  obtain ⟨hu, hc⟩ := hv.command
  refine State.passes_phase (p := .idle) (waits := []) henv (by simp) hu fun u hregs hin => ?_
  rw [← hin] at hu hc hf ⊢
  exact State.followsPhase_command_immediate hu.1 (Phase.agrees_idle.2 (hregs ▸ hs)) hc rfl hf

/-- The write: its request, then its completion. -/
theorem Service.Ok.passes_write (hp : (Phase.writeDue i).Agrees s.regs) (henv : s.env = v.writePart ++ rest)
    (hf : frameOf i = some f) (hw : v.writeDone.writeCompletion = some w) :
    ∃ t, s.Passes v.writePart [.request (.write f.len (frameBytes f.len f.data)), .writeDone w] t ∧
      (Phase.afterWrite i w).Agrees t.regs := by
  obtain ⟨hu, hready⟩ := hv.writeReady
  have hs := (Phase.agrees_writeDue.1 hp).1
  rw [Service.writePart, List.append_assoc] at henv
  obtain ⟨t, hrequest, ht⟩ := State.passes_phase henv (hs ▸ hv.writeReadyWait) hu fun u hregs hin =>
    State.followsPhase_writeRequest (hin ▸ hu.1) (hregs ▸ hp) hf (hin ▸ hready)
  obtain ⟨hu, -⟩ := hv.writeDone
  have hs := (Phase.agrees_writeOut.1 ht).1
  obtain ⟨t', hdone, ht'⟩ := State.passes_phase (hrequest.env_eq henv) (hs ▸ hv.writeDoneWait) hu fun u hregs hin =>
    State.followsPhase_writeDone (hin ▸ hu.1) (hregs ▸ ht) (hin ▸ hw)
  exact ⟨t', hrequest.trans hdone, ht'⟩

/-- The read of a GET: its request, then its completion. -/
theorem Service.Ok.passes_read (hp : (Phase.readDue i).Agrees s.regs) (henv : s.env = v.readPart ++ rest)
    (hr : v.readDone.readCompletion = some r) :
    ∃ t, s.Passes v.readPart [.request (.read 2), .readDone r] t ∧
      (Phase.resultDue i (exchange i (.count 1) r).result).Agrees t.regs := by
  obtain ⟨hu, hready⟩ := hv.readReady
  have hs := (Phase.agrees_readDue.1 hp).1
  rw [Service.readPart, List.append_assoc] at henv
  obtain ⟨t, hrequest, ht⟩ := State.passes_phase henv (hs ▸ hv.readReadyWait) hu fun u hregs hin =>
    State.followsPhase_readRequest (hin ▸ hu.1) (hregs ▸ hp) (hin ▸ hready)
  obtain ⟨hu, -⟩ := hv.readDone
  have hs := (Phase.agrees_readOut.1 ht).1
  obtain ⟨t', hdone, ht'⟩ := State.passes_phase (hrequest.env_eq henv) (hs ▸ hv.readDoneWait) hu fun u hregs hin =>
    State.followsPhase_readDone (hin ▸ hu.1) (hregs ▸ ht) (hin ▸ hr)
  exact ⟨t', hrequest.trans hdone, ht'⟩

theorem Service.Ok.passes_result {res : Result} (hp : (Phase.resultDue i res).Agrees s.regs)
    (henv : s.env = v.resultPart ++ rest) :
    ∃ t, s.Passes v.resultPart [.result i.op res] t ∧ t.regs.seq = .idle := by
  obtain ⟨hu, hready⟩ := hv.takeResult
  have hs := (Phase.agrees_resultDue.1 hp).1
  obtain ⟨t, hresult, ht⟩ := State.passes_phase henv (hs ▸ hv.resultWait) hu fun u hregs hin =>
    State.followsPhase_result (hin ▸ hu.1) (hregs ▸ hp) (hin ▸ hready)
  exact ⟨t, hresult, Phase.agrees_idle.1 ht⟩

/-- The whole exchange: the command, the write and the read it has, the result. -/
theorem Service.Ok.passes_exchange (hs : s.regs.seq = .idle) (hw : v.writeDone.writeCompletion = some w)
    (hr : v.readDone.readCompletion = some r)
    (henv : s.env = v.samples (exchange (decodeWord v.command.commandWord) w r).requests ++ rest) :
    ∃ t, s.Passes (v.samples (exchange (decodeWord v.command.commandWord) w r).requests)
      (exchangeEvents v.command.commandWord w r) t ∧ t.regs.seq = .idle := by
  cases hf : frameOf (decodeWord v.command.commandWord) with
  | none =>
    obtain ⟨hrequests, hresult⟩ := exchange_immediate hf w r
    have hexchange : exchange (decodeWord v.command.commandWord) w r = ⟨[], _⟩ :=
      congrArg₂ Exchange.mk hrequests hresult
    rw [hexchange, Service.samples_none, List.append_assoc] at henv
    rw [hexchange, Service.samples_none, exchangeEvents_none hexchange]
    obtain ⟨t, hcommand, ht⟩ := hv.passes_command_immediate hs henv hf
    obtain ⟨t', hresult, ht'⟩ := hv.passes_result ht (hcommand.env_eq henv)
    exact ⟨t', hcommand.trans hresult, ht'⟩
  | some f =>
    rcases exchange_of_frame hf w with ⟨res, hexchange⟩ | ⟨rfl, hexchange⟩
    · rw [hexchange, Service.samples_one, List.append_assoc, List.append_assoc] at henv
      rw [hexchange, Service.samples_one, exchangeEvents_one (hexchange r)]
      obtain ⟨t, hcommand, ht⟩ := hv.passes_command hs henv hf
      have henv := hcommand.env_eq henv
      obtain ⟨t', hwrite, ht'⟩ := hv.passes_write ht henv hf hw
      rw [Phase.afterWrite_of_one (hexchange _)] at ht'
      obtain ⟨u, hresult, hu⟩ := hv.passes_result ht' (hwrite.env_eq henv)
      exact ⟨u, hcommand.trans (hwrite.trans hresult), hu⟩
    · rw [hexchange, Service.samples_two, List.append_assoc, List.append_assoc, List.append_assoc] at henv
      rw [hexchange, Service.samples_two, exchangeEvents_two (hexchange r)]
      obtain ⟨t, hcommand, ht⟩ := hv.passes_command hs henv hf
      have henv := hcommand.env_eq henv
      obtain ⟨t', hwrite, ht'⟩ := hv.passes_write ht henv hf hw
      have henv := hwrite.env_eq henv
      rw [Phase.afterWrite_of_two (hexchange _)] at ht'
      obtain ⟨u, hread, hu⟩ := hv.passes_read ht' henv hr
      rw [hexchange] at hu
      obtain ⟨u', hresult, hu'⟩ := hv.passes_result hu (hread.env_eq henv)
      exact ⟨u', hcommand.trans (hwrite.trans (hread.trans hresult)), hu'⟩

end

end Sys2Proof.Machine

namespace Sys2Proof.Proofs

open Sys2Proof.Machine

/-- Settles O52: the service is cut into its parts, and over each the block follows the phases of the exchange level. -/
theorem servedExchangeMatchesCommandRule : Obligations.ServedExchangeMatchesCommandRule := by
  intro s v w r rest hs hv hw hr samples henv
  obtain ⟨t, hpasses, ht⟩ := hv.passes_exchange hs hw hr henv
  exact ⟨t, hpasses.run, ht, hpasses.env_eq henv, hpasses.trace⟩

end Sys2Proof.Proofs
end

section
/-! The acceptance of each command in IDLE (41_exchange R111, R112, R118 to R122). -/

namespace Sys2Proof.Machine

/-- The frame of a Set Target, its fields written out (30_encoding R74). -/
theorem encodeSetTarget_data (v : Half) : (encodeSetTarget v).data =
    ((0b0#1 ++ v.extractLsb' 5 7 : BitVec 8) ++ (0b110#3 ++ v.extractLsb' 0 5 : BitVec 8) : BitVec 16) := by
  obtain ⟨h0, h1, -⟩ := Proofs.setFrameFieldsAreMarkerAndValueBits v
  rw [← h0, ← h1]
  rfl

theorem acceptedRegs_settgC_of_le {v : Half} (h : v.toNat ≤ 4095) (r : Regs) :
    acceptedRegs (.settgC v) r = acceptedRegs (.settg v) r := if_pos ((inRange_iff v).2 h)

theorem acceptedRegs_settgC_of_gt {v : Half} (h : 4095 < v.toNat) (r : Regs) :
    acceptedRegs (.settgC v) r = (r.accept 2).endAtAcceptance .valueRejected :=
  if_neg fun hin => h.not_ge ((inRange_iff v).1 hin)

/-- The block's edge at which a command transfers is its acceptance (R111). -/
theorem State.blockEdge_of_command {s : State} (h : s.commandTransfers = true) :
    s.blockEdge = .next { s with regs := acceptedRegs (decodeWord s.inputs.commandWord) s.regs } := by
  rw [State.blockEdge_eq, State.nextRegs_of_command h]

end Sys2Proof.Machine

namespace Sys2Proof.Proofs

open Sys2Proof.Machine

/-- Settles O13: the edge in IDLE is the acceptance, which reads no ignored field. -/
theorem getCommandsAreAcceptedInIdle : Obligations.GetCommandsAreAcceptedInIdle := by
  intro s c v hs
  exact ⟨exec_of_idle (.getfb c v) hs, exec_of_idle (.gettg c v) hs⟩

/-- Settles O14: the edge in IDLE is the acceptance, which in range is the unchecked one. -/
theorem setCommandsAreAcceptedInIdle : Obligations.SetCommandsAreAcceptedInIdle := by
  intro s v hs accepted
  have hset : ({ s with regs := acceptedRegs (.settg v) s.regs } : State) = accepted := by
    simp only [accepted, ← encodeSetTarget_data]
    rfl
  refine ⟨?_, fun hv => ?_⟩
  · rw [exec_of_idle _ hs, hset]
  · rw [exec_of_idle _ hs, acceptedRegs_settgC_of_le hv, hset]

/-- Settles O17: with a command presented the edge accepts what the decoder reads from the port, code by code. -/
theorem idleAcceptsThePresentedCommand : Obligations.IdleAcceptsThePresentedCommand := by
  intro s hs hr i cleared
  have hready : s.regs.outputs.cmdReady = true := (Regs.outputs_cmdReady_iff _).2 hs
  have haccept (hv : i.cmdValid = true) : s.blockEdge = .next { s with regs := acceptedRegs (decodeWord i.commandWord) s.regs } :=
    State.blockEdge_of_command (s.commandTransfers_iff.2 ⟨hr, hv, hready⟩)
  have hword := decodeWord_commandWordOf i.cmdChecked i.cmdOp i.cmdValue
  rw [← Inputs.commandWord] at hword
  refine ⟨hready, fun hv => ?_, fun hv => s.commandTransfers_iff.2 ⟨hr, hv, hready⟩, fun hv hop => ?_, fun hv hop => ?_,
    fun hv hop hc hgt => ?_, fun hv hop hle => ?_, fun hv hop => ?_⟩
  · rw [State.blockEdge_eq, State.nextRegs_of_unanswered hr (by rw [hs]; exact hv)]
  all_goals rw [haccept hv, hword, hop]
  all_goals simp only [cleared, hop]
  · rfl
  · rfl
  · rw [hc]
    exact congrArg (fun r => Host.Outcome.next { s with regs := r }) (acceptedRegs_settgC_of_gt hgt s.regs)
  · have hset : acceptedRegs (if i.cmdChecked then .settgC i.cmdValue else .settg i.cmdValue) s.regs =
        acceptedRegs (.settg i.cmdValue) s.regs := by
      cases hc : i.cmdChecked with
      | false => rfl
      | true => exact acceptedRegs_settgC_of_le (hle.resolve_left (by simp [hc])) s.regs
    exact congrArg (fun r => Host.Outcome.next { s with regs := r }) hset
  · rfl

end Sys2Proof.Proofs
end

section
/-! The exchange in flight, whatever command stands on the port (41_exchange R110, R113 to R117, R123). -/

namespace Sys2Proof.Machine

section
variable {s : State}

/-- The edge of any command in WR_WAIT at which the write completes. -/
theorem exec_of_writeDone (i : Instr) (hs : s.regs.seq = .wrWait) (hv : s.inputs.wrDoneValid = true) :
    exec i s = .next { s with regs := s.regs.writeDone s.inputs } := by
  rw [exec_of_busy i (by simp [hs]), Regs.exchangeEdge_of_writeDone hs hv]

/-- The edge of any command in RD_WAIT at which the read completes. -/
theorem exec_of_readDone (i : Instr) (hs : s.regs.seq = .rdWait) (hv : s.inputs.rdDoneValid = true) :
    exec i s = .next { s with regs := s.regs.readDone s.inputs } := by
  rw [exec_of_busy i (by simp [hs]), Regs.exchangeEdge_of_readDone hs hv]

end

/-- RD_REQ is entered from WR_WAIT alone, by a full write of a command that is no Set Target (R115). -/
theorem Regs.exchangeEdge_seq_rdReq {r : Regs} {i : Inputs} (hr : r.seq ≠ .rdReq) (h : (r.exchangeEdge i).seq = .rdReq) :
    r.seq = .wrWait ∧ r.opQ ≠ 2 ∧ i.writeCompletion = some (.count r.lenQ) := by
  rcases r.exchangeEdge_cases i with e | ⟨-, -, e⟩ | ⟨hs, hv, e⟩ | ⟨hs, -, -⟩ | ⟨-, -, e⟩ | ⟨-, -, e⟩
  case inr.inr.inl =>
    rw [e] at h
    rcases r.writeDone_cases i with ⟨-, e⟩ | ⟨-, -, e⟩ | ⟨-, -, -, e⟩ | ⟨he, hc, hop, -⟩
    case inr.inr.inr => exact ⟨hs, hop, hc ▸ Inputs.writeCompletion_of_count hv he⟩
    all_goals simp [e] at h
  case inr.inr.inr.inl => exact absurd hs hr
  case inl => exact absurd (e ▸ h) hr
  all_goals simp [e, Regs.readDone_seq] at h

/-- The block enters RD_REQ by an edge of the exchange in flight alone: a reset and an acceptance lead elsewhere. -/
theorem State.nextRegs_seq_rdReq {s : State} (hr : s.regs.seq ≠ .rdReq) (h : s.nextRegs.seq = .rdReq) :
    (s.regs.exchangeEdge s.inputs).seq = .rdReq := by
  rcases s.nextRegs_cases with ⟨-, e⟩ | ⟨-, -, -, e⟩ | ⟨-, -, -, e⟩ | ⟨-, -, e⟩ <;> rw [e] at h
  · simp at h
  · exact absurd h hr
  · rcases acceptedRegs_seq (decodeWord s.inputs.commandWord) s.regs with e | e <;> simp [e] at h
  · exact h

/-- What an edge of the exchange in flight from `r` to `r'` leaves unchanged of the result registers (R110). -/
structure Regs.KeepsUnnamed (r r' : Regs) : Prop where
  status : r'.seq ≠ .resp ∨ r.seq = .resp → r'.rspStatusQ = r.rspStatusQ
  value : ¬(r.seq = .rdWait ∧ r'.seq = .resp ∧ r'.rspStatusQ = .okValue) → r'.rspValueQ = r.rspValueQ
  counts : ¬(r'.seq = .resp ∧ (r'.rspStatusQ = .writeIncomplete ∨ r'.rspStatusQ = .readIncomplete)) →
    r'.rspExpectedQ = r.rspExpectedQ ∧ r'.rspActualQ = r.rspActualQ
  cause : ¬(r'.seq = .resp ∧ (r'.rspStatusQ = .writeFailed ∨ r'.rspStatusQ = .readFailed)) → r'.rspCauseQ = r.rspCauseQ

theorem Regs.keepsUnnamed_seq (r : Regs) (q : Seq) : r.KeepsUnnamed { r with seq := q } :=
  ⟨fun _ => rfl, fun _ => rfl, fun _ => ⟨rfl, rfl⟩, fun _ => rfl⟩

theorem Regs.keepsUnnamed_writeDone {r : Regs} (hs : r.seq = .wrWait) (i : Inputs) : r.KeepsUnnamed (r.writeDone i) := by
  rcases r.writeDone_cases i with ⟨-, e⟩ | ⟨-, -, e⟩ | ⟨-, -, -, e⟩ | ⟨-, -, -, e⟩ <;> rw [e]
  · exact ⟨by simp [hs], by simp, by simp, by simp⟩
  · exact ⟨by simp [hs], by simp, by simp, by simp⟩
  · exact ⟨by simp [hs], by simp, by simp, by simp⟩
  · exact r.keepsUnnamed_seq .rdReq

theorem Regs.keepsUnnamed_readDone {r : Regs} (hs : r.seq = .rdWait) (i : Inputs) : r.KeepsUnnamed (r.readDone i) := by
  rcases r.readDone_cases i with ⟨-, e⟩ | ⟨-, -, e⟩ | ⟨-, -, e⟩ <;> rw [e]
  · exact ⟨by simp [hs], by simp, by simp, by simp⟩
  · exact ⟨by simp [hs], by simp, by simp, by simp⟩
  · exact ⟨by simp [hs], by simp [hs], by simp, by simp⟩

theorem Regs.keepsUnnamed_exchangeEdge (r : Regs) (i : Inputs) : r.KeepsUnnamed (r.exchangeEdge i) := by
  rcases r.exchangeEdge_cases i with e | ⟨-, -, e⟩ | ⟨hs, -, e⟩ | ⟨-, -, e⟩ | ⟨hs, -, e⟩ | ⟨-, -, e⟩ <;> rw [e]
  · exact r.keepsUnnamed_seq r.seq
  · exact r.keepsUnnamed_seq .wrWait
  · exact Regs.keepsUnnamed_writeDone hs i
  · exact r.keepsUnnamed_seq .rdWait
  · exact Regs.keepsUnnamed_readDone hs i
  · exact r.keepsUnnamed_seq .idle

end Sys2Proof.Machine

namespace Sys2Proof.Proofs

open Sys2Proof.Machine

/-- Settles O19: the answered and the unanswered edge of WR_REQ, and the request that transfers. -/
theorem writeRequestIsPresentedUntilTaken : Obligations.WriteRequestIsPresentedUntilTaken := by
  intro i s hs
  refine ⟨(Regs.outputs_wrReqValid_iff _).2 hs, rfl, rfl, fun hready => ⟨?_, fun hr => ?_⟩, fun hready => ?_⟩
  · rw [exec_of_busy i (by simp [hs]), Regs.exchangeEdge_of_writeRequest hs hready]
  · exact State.requestTransferred_of_writeReady hs hr hready
  · have ha : s.inputs.answers s.regs.seq = false := by rw [hs]; exact hready
    exact ⟨exec_of_unanswered i (by simp [hs]) ha, State.requestTransferred_of_unanswered ha⟩

/-- Settles O20: the unanswered edge of WR_WAIT and the branches of its completion. -/
theorem writeCompletionEndsOrContinues : Obligations.WriteCompletionEndsOrContinues := by
  intro i s hs p
  refine ⟨fun hv => ?_, fun hv he => ?_, fun hv he hc => ⟨?_, fun hr t hstep hgt => ?_⟩, fun hv he hc hop => ?_,
    fun hv he hc hop => ?_⟩
  · exact exec_of_unanswered i (by simp [hs]) (by rw [hs]; exact hv)
  · rw [exec_of_writeDone i hs hv, Regs.writeDone_of_error he]
  · rw [exec_of_writeDone i hs hv, Regs.writeDone_of_count_ne he hc]
  · have hover := s.overCount_iff.2 (.inr (.inr (.inl ⟨s.consumesWrite_iff.2 ⟨hr, hs, hv⟩, he, hgt⟩)))
    exact (step_countOverRequest hstep).2 (.inr hover)
  · rw [exec_of_writeDone i hs hv, Regs.writeDone_of_full_set he hc hop]
  · rw [exec_of_writeDone i hs hv, Regs.writeDone_of_full_get he hc hop]

/-- Settles O21: the edges of RD_REQ and RD_WAIT, and the one edge that enters RD_REQ. -/
theorem readIsRequestedOnceAfterFullWrite : Obligations.ReadIsRequestedOnceAfterFullWrite := by
  refine ⟨fun i s hs => ?_, fun i s hs => ?_, fun s s' hstep hs hs' => ?_⟩
  · refine ⟨(Regs.outputs_rdReqValid_iff _).2 hs, rfl, fun hready => ⟨?_, fun hr => ?_⟩, fun hready => ?_⟩
    · rw [exec_of_busy i (by simp [hs]), Regs.exchangeEdge_of_readRequest hs hready]
    · exact State.requestTransferred_of_readReady hs hr hready
    · exact exec_of_unanswered i (by simp [hs]) (by rw [hs]; exact hready)
  · exact ⟨fun hv => exec_of_unanswered i (by simp [hs]) (by rw [hs]; exact hv), exec_of_readDone i hs⟩
  · rw [step_regs hstep] at hs'
    obtain ⟨hwait, hop, hcount⟩ := Regs.exchangeEdge_seq_rdReq hs (State.nextRegs_seq_rdReq hs hs')
    refine ⟨hwait, hop, hcount, fun hinv => ?_⟩
    obtain ⟨hget, hlen⟩ := (hinv.request (.inr hwait)).get hop
    exact ⟨hget, hlen ▸ hcount⟩

/-- Settles O22: the branches of the read completion. -/
theorem readCompletionEndsTheExchange : Obligations.ReadCompletionEndsTheExchange := by
  intro i s hs hv p
  refine ⟨fun he => ?_, fun he hc => ⟨?_, fun hr t hstep hthree => ?_⟩, fun he hc => ?_⟩
  · rw [exec_of_readDone i hs hv, Regs.readDone_of_error he]
  · rw [exec_of_readDone i hs hv, Regs.readDone_of_count_ne he hc]
  · have hover := s.overCount_iff.2 (.inr (.inr (.inr ⟨s.consumesRead_iff.2 ⟨hr, hs, hv⟩, he, hthree⟩)))
    exact (step_countOverRequest hstep).2 (.inr hover)
  · rw [exec_of_readDone i hs hv, Regs.readDone_of_two he hc]
    rfl

/-- Settles O23: the outputs are the registers, and the two edges of RESP. -/
theorem resultIsPresentedUntilTaken : Obligations.ResultIsPresentedUntilTaken := by
  intro i s hs o
  have hvalid : o.rspValid = true := (Regs.outputs_rspValid_iff _).2 hs
  refine ⟨⟨hvalid, rfl, rfl, rfl, rfl, rfl, rfl⟩, ?_, fun hready hr => s.resultTransfers_iff.2 ⟨hr, hvalid, hready⟩,
    fun hready => ?_, fun hready => ?_⟩
  · simp [State.commandTransfers, Regs.outputs, hs]
  · rw [exec_of_busy i (by simp [hs]), Regs.exchangeEdge_of_result hs hready]
  · exact exec_of_unanswered i (by simp [hs]) (by rw [hs]; exact hready)

/-- Settles O24: outside IDLE the frame of the edge in flight; in IDLE acceptance writes a status only where it ends the exchange. -/
theorem execFrame : Obligations.ExecFrame := by
  intro i s t h
  by_cases hs : s.regs.seq = .idle
  · rw [exec_of_idle i hs] at h
    obtain rfl := Host.Outcome.next.inj h
    refine ⟨rfl, fun hbusy => absurd hs hbusy, fun hstatus => ?_, fun hbusy => absurd hs hbusy, fun hbusy => absurd hs hbusy,
      fun hbusy => absurd hs hbusy⟩
    cases hf : frameOf i with
    | some f => exact (acceptedRegs_frame hf s.regs).2.2.2
    | none => exact absurd (acceptedRegs_immediate hf s.regs).1 (hstatus.resolve_right (by simp [hs]))
  · rw [exec_of_busy i hs] at h
    obtain rfl := Host.Outcome.next.inj h
    obtain ⟨hstatus, hvalue, hcounts, hcause⟩ := s.regs.keepsUnnamed_exchangeEdge s.inputs
    exact ⟨rfl, fun _ => s.regs.exchangeEdge_keeps_request s.inputs, hstatus, fun _ => hvalue, fun _ => hcounts, fun _ => hcause⟩

end Sys2Proof.Proofs
end

section
/-! A step is the edge of a command with the agents' edges around it, and a stray completion does not change it. -/

namespace Sys2Proof.Machine

/-- The step that takes a command runs it (41_exchange R111). -/
theorem step_of_command {s : State} (h : s.commandTransfers = true) : ∃ t,
    exec (decodeWord s.inputs.commandWord) s = .next t ∧ step s = .next (s.advance t) := by
  have hs := (Regs.outputs_cmdReady_iff _).1 (s.commandTransfers_iff.1 h).2.2
  exact ⟨_, exec_of_idle _ hs, State.nextRegs_of_command h ▸ step_eq s (State.brokenPremise_of_idle hs)⟩

/-- A word placed by `withFetchWord` is the command that transfers at the next edge (log 3). -/
theorem State.withFetchWord_inputs (s : State) (i : Instr) :
    (s.withFetchWord 24 (encodeWord i).toNat).inputs = Inputs.presenting (encodeWord i) := by
  have hlt : (encodeWord i).toNat < 2 ^ 24 := (encodeWord i).isLt.trans (by norm_num)
  rw [(s.withFetchWord _ _).inputs_cons _ _ rfl, Nat.mod_eq_of_lt hlt, BitVec.ofNat_toNat, BitVec.setWidth_eq]

theorem State.withFetchWord_commandTransfers (s : State) (i : Instr) :
    (s.withFetchWord 24 (encodeWord i).toNat).commandTransfers = true := by
  rw [State.commandTransfers, State.withFetchWord_inputs]
  rfl

/-! The signals of a completion are sampled in its own waiting state alone (41_exchange R124). -/

theorem Regs.exchangeEdge_write_signals {r : Regs} (h : r.seq ≠ .wrWait) (i : Inputs) (valid err : Bool) (count : BitVec 2)
    (cause : Cause) :
    r.exchangeEdge { i with wrDoneValid := valid, wrDoneErr := err, wrDoneCount := count, wrDoneCause := cause } =
      r.exchangeEdge i := by
  unfold Regs.exchangeEdge
  split
  case h_3 hs => exact absurd hs h
  all_goals rfl

theorem Regs.exchangeEdge_read_signals {r : Regs} (h : r.seq ≠ .rdWait) (i : Inputs) (valid err : Bool) (count : BitVec 2)
    (data : Half) (cause : Cause) :
    r.exchangeEdge { i with rdDoneValid := valid, rdDoneErr := err, rdDoneCount := count, rdDoneData := data,
                            rdDoneCause := cause } = r.exchangeEdge i := by
  unfold Regs.exchangeEdge
  split
  case h_5 hs => exact absurd hs h
  all_goals rfl

/-- The next registers depend on the inputs through the reset, the command port and the edge of the exchange in flight. -/
theorem State.nextRegs_congr {s t : State} (hregs : s.regs = t.regs) (hrst : s.inputs.rst = t.inputs.rst)
    (hvalid : s.inputs.cmdValid = t.inputs.cmdValid) (hword : s.inputs.commandWord = t.inputs.commandWord)
    (hedge : t.regs.exchangeEdge s.inputs = t.regs.exchangeEdge t.inputs) : s.nextRegs = t.nextRegs := by
  simp only [State.nextRegs, hregs, hrst, hvalid, hword, hedge]

theorem State.brokenPremise_of_levels {s : State} (hother : s.inputs.otherAgent = false)
    (hclosed : s.inputs.channelClosed = false) : s.brokenPremise = none := by
  simp [State.brokenPremise, hother, hclosed]

theorem State.strayWrite_recorded {s : State} (hs : s.regs.seq ≠ .wrWait) (hv : s.inputs.wrDoneValid = true) :
    s.faultsEdge.strayCompletion = true := by
  simp [State.faultsEdge, State.strayWrite, hv, hs]

theorem State.strayRead_recorded {s : State} (hs : s.regs.seq ≠ .rdWait) (hv : s.inputs.rdDoneValid = true) :
    s.faultsEdge.strayCompletion = true := by
  simp [State.faultsEdge, State.strayRead, hv, hs]

end Sys2Proof.Machine

namespace Sys2Proof.Proofs

open Sys2Proof.Machine

/-- Settles O25: the command that transfers is the one the decoder reads from the port, and so is a word placed there. -/
theorem stepRunsThePresentedCommand : Obligations.StepRunsThePresentedCommand := by
  refine ⟨fun s i hs hr hv hi => ?_, fun s i => ?_⟩
  · rw [← hi]
    exact step_of_command (s.commandTransfers_iff.2 ⟨hr, hv, (Regs.outputs_cmdReady_iff _).2 hs⟩)
  · have hrun := step_of_command (s.withFetchWord_commandTransfers i)
    rwa [State.withFetchWord_inputs, Inputs.presenting_commandWord, decodeWord_encodeWord] at hrun

/-- Settles O26: outside IDLE both the step and every command take the edge in flight. -/
theorem stepRunsTheExchangeInFlight : Obligations.StepRunsTheExchangeInFlight := by
  refine ⟨fun s i hs hp hr => ?_, fun s hs hr hv => ?_⟩
  · exact ⟨_, exec_of_busy i hs, State.nextRegs_of_busy hr hs ▸ step_eq s hp⟩
  · rw [step_eq s (State.brokenPremise_of_idle hs), State.nextRegs_of_unanswered hr (by rw [hs]; exact hv)]

/-- Settles O31: outside its waiting state a completion reaches no register, and the state is one ground of the stray record. -/
theorem strayCompletionsAreIgnoredAndRecorded : Obligations.StrayCompletionsAreIgnoredAndRecorded := by
  intro s i rest valid err count data cause hother hclosed
  have hstep := step_eq { s with env := i :: rest } (State.brokenPremise_of_levels hother hclosed)
  refine ⟨fun hs => ?_, fun hs => ?_⟩
  · refine ⟨_, _, hstep, step_eq _ (State.brokenPremise_of_levels hother hclosed), ?_, fun hv => ?_⟩
    · exact State.nextRegs_congr rfl rfl rfl rfl (Regs.exchangeEdge_write_signals hs i valid err count cause)
    · exact State.strayWrite_recorded hs hv
  · refine ⟨_, _, hstep, step_eq _ (State.brokenPremise_of_levels hother hclosed), ?_, fun hv => ?_⟩
    · exact State.nextRegs_congr rfl rfl rfl rfl (Regs.exchangeEdge_read_signals hs i valid err count data cause)
    · exact State.strayRead_recorded hs hv

end Sys2Proof.Proofs
end

section
/-! Failures and the order of events (60_exceptions R146 to R151). -/

namespace Sys2Proof.Machine

/-- The result's status is the status register (60_exceptions R141). -/
theorem Regs.result_status (r : Regs) : r.result.status = r.rspStatusQ := by
  unfold Regs.result
  split <;> exact Eq.symm ‹_›

/-! The transfers and consumptions of an edge, by the state each belongs to (R151). -/

/-- The block is in state `q` at an edge without reset, and `q`'s answer is there. -/
def State.answeredIn (s : State) (q : Seq) : Bool := !s.inputs.rst && s.regs.seq == q && s.inputs.answers q

theorem State.answeredIn_of_reset {s : State} (hr : s.inputs.rst = true) (q : Seq) : s.answeredIn q = false := by
  simp [State.answeredIn, hr]

theorem State.seq_of_answeredIn {s : State} {q : Seq} (h : s.answeredIn q = true) : s.regs.seq = q := by
  simp only [State.answeredIn, Bool.and_eq_true, beq_iff_eq] at h
  obtain ⟨⟨-, hs⟩, -⟩ := h
  exact hs

/-- Each of the six is the answer of its own state. -/
theorem State.transfers_eq_map_answeredIn (s : State) :
    [s.commandTransfers, s.writeRequestTransfers, s.consumesWrite, s.readRequestTransfers, s.consumesRead, s.resultTransfers] =
      [.idle, .wrReq, .wrWait, .rdReq, .rdWait, .resp].map s.answeredIn := by
  have hcommand : s.commandTransfers = s.answeredIn .idle := Bool.and_right_comm _ _ _
  rw [hcommand]
  rfl

/-- Only the state the block is in can be answered. -/
theorem State.count_answeredIn_le (s : State) (l : List Seq) : (l.map s.answeredIn).count true ≤ l.count s.regs.seq := by
  rw [List.count, List.countP_map]
  refine List.countP_mono_left fun q _ h => ?_
  exact beq_iff_eq.2 (State.seq_of_answeredIn (beq_iff_eq.1 h)).symm

end Sys2Proof.Machine

namespace Sys2Proof.Proofs

open Sys2Proof.Machine

/-- Settles O15: the edge in IDLE is the acceptance, which above the range ends the exchange; IDLE presents no request. -/
theorem checkedSetRejectsAboveRange : Obligations.CheckedSetRejectsAboveRange := by
  intro s v hs hgt
  refine ⟨?_, State.requestTransferred_of_unpresented (by simp [hs]) (by simp [hs])⟩
  rw [exec_of_idle _ hs, acceptedRegs_settgC_of_gt hgt]
  rfl

/-- Settles O16: the edge in IDLE is the acceptance, which reads no ignored field; IDLE presents no request. -/
theorem reservedCodeEndsIllegal : Obligations.ReservedCodeEndsIllegal := by
  intro s c v hs
  exact ⟨exec_of_idle (.op3 c v) hs, State.requestTransferred_of_unpresented (by simp [hs]) (by simp [hs])⟩

/-- Settles O32: the error branch of each completion comes first, and writes the status, the cause and `state` alone. -/
theorem hardErrorBeatsCount : Obligations.HardErrorBeatsCount := by
  intro i s t h
  refine ⟨fun hs hv he => ?_, fun hs hv he => ?_⟩
  · rw [exec_of_writeDone i hs hv, Regs.writeDone_of_error he] at h
    obtain rfl := Host.Outcome.next.inj h
    exact ⟨rfl, rfl⟩
  · rw [exec_of_readDone i hs hv, Regs.readDone_of_error he] at h
    obtain rfl := Host.Outcome.next.inj h
    exact ⟨rfl, rfl, rfl⟩

/-- Settles O33: each event is the answer of its own state, and the block is in one state. -/
theorem atMostOneTransferPerEdge : Obligations.AtMostOneTransferPerEdge := by
  intro s events
  have hevents := s.transfers_eq_map_answeredIn
  refine ⟨?_, fun hr => ?_, fun hc => ?_⟩
  · simp only [events, hevents]
    exact (s.count_answeredIn_le _).trans (List.nodup_iff_count_le_one.1 (by decide) _)
  · simp [events, hevents, State.answeredIn_of_reset hr]
  · obtain ⟨-, -, hready⟩ := s.commandTransfers_iff.1 hc
    exact (Regs.outputs_cmdReady_iff _).1 hready

/-- Settles O46: the register invariant clears the value, and a typed result has the registers' status. -/
theorem noValueOnFailure : Obligations.NoValueOnFailure := by
  intro r hinv _ hstatus
  refine ⟨hinv.fields.value hstatus, fun v hv => hstatus ?_⟩
  rw [← r.result_status, hv]
  rfl

end Sys2Proof.Proofs
end

section
/-! A refused step, the reset step, and a completion at its request's own transfer edge (70_reset R170 to R175, R180, R184). -/

namespace Sys2Proof.Machine

section
variable {s : State}

/-! A launch premise is broken only in flight, and then the step is refused by its name (R175, R180). -/

theorem State.brokenPremise_eq_none_iff : s.brokenPremise = none ↔
    s.regs.seq = .idle ∨ (s.inputs.otherAgent = false ∧ s.inputs.channelClosed = false) := by
  by_cases hs : s.regs.seq = .idle
  · simp [State.brokenPremise_of_idle hs, hs]
  · cases hother : s.inputs.otherAgent <;> cases hclosed : s.inputs.channelClosed <;>
      simp [State.brokenPremise, Regs.inFlight, hs, hother, hclosed]

theorem State.brokenPremise_of_otherAgent (hs : s.regs.seq ≠ .idle) (hother : s.inputs.otherAgent = true) :
    s.brokenPremise = some .channelShared := by
  simp [State.brokenPremise, Regs.inFlight, hs, hother]

theorem State.brokenPremise_of_channelClosed (hs : s.regs.seq ≠ .idle) (hother : s.inputs.otherAgent = false)
    (hclosed : s.inputs.channelClosed = true) : s.brokenPremise = some .channelClosedInFlight := by
  simp [State.brokenPremise, Regs.inFlight, hs, hother, hclosed]

theorem step_of_brokenPremise {r : Refusal} (h : s.brokenPremise = some r) : step s = .refused r := by
  simp [step, State.clockEdge, h]

theorem step_next_iff : (∃ t, step s = .next t) ↔ s.brokenPremise = none :=
  ⟨fun ⟨_, h⟩ => (step_inv h).1, fun h => ⟨_, step_eq s h⟩⟩

theorem State.nextRegs_of_reset (hr : s.inputs.rst = true) : s.nextRegs = Regs.reset := by
  simp [State.nextRegs, hr]

/-- Without a completion the outstanding requests are kept, and the request that transfers is added. -/
theorem State.channelEdge_outstanding_of_no_completion (hw : s.inputs.wrDoneValid = false) (hd : s.inputs.rdDoneValid = false) :
    s.channelEdge.outstanding = s.channel.outstanding ++ s.requestTransferred.toList := by
  simp [State.channelEdge_outstanding, hw, hd]

end

end Sys2Proof.Machine

namespace Sys2Proof.Proofs

open Sys2Proof.Machine

/-- Settles O27: a step answers exactly where no premise is broken, and otherwise with the premise that is. -/
theorem stepRefusesOnlyABrokenPremise : Obligations.StepRefusesOnlyABrokenPremise := by
  refine fun s => ⟨step_next_iff.trans State.brokenPremise_eq_none_iff, fun hs hother => ?_, fun hs hother hclosed => ?_⟩
  · exact step_of_brokenPremise (State.brokenPremise_of_otherAgent hs hother)
  · exact step_of_brokenPremise (State.brokenPremise_of_channelClosed hs hother hclosed)

/-- Settles O28: `rst` selects the reset registers, and every transfer and consumption asks for `rst` = 0. -/
theorem resetStepWritesEveryRegister : Obligations.ResetStepWritesEveryRegister := by
  intro s hpremise hr
  refine ⟨_, step_eq s hpremise, State.nextRegs_of_reset hr, ?_⟩
  simp [State.commandTransfers, State.resultTransfers, State.writeRequestTransfers, State.readRequestTransfers,
    State.consumesWrite, State.consumesRead, hr]

/-- Settles O29: the outputs are computed from the reset registers, whose state is IDLE. -/
theorem outputsAfterReset : Obligations.OutputsAfterReset := by
  refine ⟨rfl, fun s hregs => ?_⟩
  have hready : s.regs.outputs.cmdReady = true := by rw [Regs.outputs_cmdReady_iff, hregs]; rfl
  rw [s.commandTransfers_iff, hready]
  simp

/-- Settles O30: at a reset edge no request transfers, and without a completion the channel keeps what it holds. -/
theorem resetCancelsNoChannelRequest : Obligations.ResetCancelsNoChannelRequest := by
  intro s t hstep hr
  refine ⟨by rw [step_trace hstep, State.portEvent_of_reset hr]; rfl, fun hw hd => ?_⟩
  rw [step_channel hstep]
  constructor
  · rw [State.channelEdge_outstanding_of_no_completion hw hd, State.requestTransferred_of_reset hr]
    exact List.append_nil _
  · exact State.channelEdge_wire_of_no_writeCompletion (by simp [Inputs.writeCompletion, hw])

/-- Settles O58: the request edge moves `state` alone, and a completion in a request state is stray. -/
theorem earlyCompletionIsIgnored : Obligations.EarlyCompletionIsIgnored := by
  intro s t hstep hr
  rw [step_regs hstep, step_faults hstep]
  refine ⟨fun htransfer hv => ?_, fun htransfer hv => ?_⟩
  · obtain ⟨-, hvalid, hready⟩ := s.writeRequestTransfers_iff.1 htransfer
    have hs := (Regs.outputs_wrReqValid_iff _).1 hvalid
    rw [State.nextRegs_of_busy hr (by simp [hs])]
    exact ⟨Regs.exchangeEdge_of_writeRequest hs hready, State.strayWrite_recorded (by simp [hs]) hv⟩
  · obtain ⟨-, hvalid, hready⟩ := s.readRequestTransfers_iff.1 htransfer
    have hs := (Regs.outputs_rdReqValid_iff _).1 hvalid
    rw [State.nextRegs_of_busy hr (by simp [hs])]
    exact ⟨Regs.exchangeEdge_of_readRequest hs hready, State.strayRead_recorded (by simp [hs]) hv⟩

end Sys2Proof.Proofs
end

section
/-! The awaited request with resets in flight (70_reset R171, R187). -/

namespace Sys2Proof.Machine

section
variable {s : State} {q : ChannelRequest}

theorem State.awaitedOutstanding_iff (s : State) :
    s.AwaitedOutstanding ↔ ∀ q ∈ s.regs.awaited, s.channel.outstanding.getLast? = some q := by
  unfold State.AwaitedOutstanding Regs.awaited
  cases s.regs.seq <;> simp

/-- What is awaited is a write in WR_WAIT or a read in RD_WAIT. -/
theorem Regs.awaited_kind {r : Regs} (h : q ∈ r.awaited) :
    (r.seq = .wrWait ∧ q.isRead = false) ∨ (r.seq = .rdWait ∧ q.isWrite = false) := by
  cases hs : r.seq <;> simp only [Regs.awaited, hs, List.mem_singleton, List.not_mem_nil] at h <;> subst h
  · exact .inl ⟨rfl, rfl⟩
  · exact .inr ⟨rfl, rfl⟩

/-- Taking off an element that is not the last keeps the last. -/
theorem getLast?_eraseP_of_not {α : Type} {p : α → Bool} {l : List α} {a : α} (h : l.getLast? = some a) (ha : p a = false) :
    (l.eraseP p).getLast? = some a := by
  obtain ⟨init, rfl⟩ := List.getLast?_eq_some_iff.1 h
  by_cases hany : ∃ b ∈ init, p b
  · obtain ⟨b, hb, hpb⟩ := hany
    rw [List.eraseP_append_left hpb _ hb]
    exact List.getLast?_concat
  · rw [List.eraseP_append_right _ (by simpa using hany)]
    simp [ha]

/-- The completion of its own kind alone is the answer to an awaited request; one of the other kind leaves it the newest. -/
theorem State.getLast?_channelEdge_of_unanswered (hq : q ∈ s.regs.awaited) (h : s.channel.outstanding.getLast? = some q)
    (ha : s.inputs.answers s.regs.seq = false) : s.channelEdge.outstanding.getLast? = some q := by
  rw [State.channelEdge_outstanding, State.requestTransferred_of_unanswered ha]
  rcases Regs.awaited_kind hq with ⟨hs, hkind⟩ | ⟨hs, hkind⟩
  · have hv : s.inputs.wrDoneValid = false := by simpa [hs, Inputs.answers] using ha
    cases hd : s.inputs.rdDoneValid <;> simp [hv, h, getLast?_eraseP_of_not h hkind]
  · have hv : s.inputs.rdDoneValid = false := by simpa [hs, Inputs.answers] using ha
    cases hd : s.inputs.wrDoneValid <;> simp [hv, h, getLast?_eraseP_of_not h hkind]

/-- A completion ends the wait for its request, so nothing is awaited after it. -/
theorem State.nextRegs_awaited_of_completion (hs : s.regs.seq = .wrWait ∨ s.regs.seq = .rdWait) (hr : s.inputs.rst = false)
    (ha : s.inputs.answers s.regs.seq = true) : s.nextRegs.awaited = [] := by
  rw [State.nextRegs_of_busy hr (by rcases hs with hs | hs <;> simp [hs])]
  rcases hs with hs | hs <;> rw [hs] at ha
  · rw [Regs.exchangeEdge_of_writeDone hs ha]
    rcases s.regs.writeDone_seq s.inputs with e | e <;> exact Regs.awaited_of_not_waiting (by simp [e]) (by simp [e])
  · rw [Regs.exchangeEdge_of_readDone hs ha]
    exact Regs.awaited_of_not_waiting (by simp [Regs.readDone_seq]) (by simp [Regs.readDone_seq])

/-- After an answer what is awaited is the request taken at that edge, which is the newest. -/
theorem State.getLast?_channelEdge_of_answered (hr : s.inputs.rst = false) (ha : s.inputs.answers s.regs.seq = true)
    (hq : q ∈ s.nextRegs.awaited) : s.channelEdge.outstanding.getLast? = some q := by
  by_cases hs : s.regs.seq = .wrWait ∨ s.regs.seq = .rdWait
  · simp [State.nextRegs_awaited_of_completion hs hr ha] at hq
  · obtain ⟨hw, hd⟩ := not_or.1 hs
    rw [← State.requestTransferred_eq_awaited hw hd hr ha, Option.mem_toList] at hq
    rw [State.channelEdge_outstanding, hq]
    exact List.getLast?_concat

end

end Sys2Proof.Machine

namespace Sys2Proof.Proofs

open Sys2Proof.Machine

/-- Settles O49: after a reset nothing is awaited, an unanswered request stays the newest, and an answer takes the next. -/
theorem awaitedRequestIsOutstanding : Obligations.AwaitedRequestIsOutstanding := by
  intro s t hstep h
  rw [State.awaitedOutstanding_iff] at h ⊢
  rw [step_regs hstep, step_channel hstep]
  intro q hq
  cases hr : s.inputs.rst with
  | true => rw [State.nextRegs_of_reset hr] at hq; cases hq
  | false =>
    cases ha : s.inputs.answers s.regs.seq with
    | false =>
      rw [State.nextRegs_of_unanswered hr ha] at hq
      exact State.getLast?_channelEdge_of_unanswered hq (h q hq) ha
    | true => exact State.getLast?_channelEdge_of_answered hr ha hq

end Sys2Proof.Proofs
end

section
/-! How long an exchange takes and waits (70_reset R183, R190). -/

namespace Sys2Proof.Machine

/-- What is left of a run after its first `k` edges. -/
theorem State.runsTo_of_add {s t u : State} {k m : Nat} (h : s.runsTo k t) (hu : s.runsTo (k + m) u) : t.runsTo m u := by
  induction k generalizing s with
  | zero =>
    obtain rfl := State.runsTo_zero_iff.1 h
    rwa [Nat.zero_add] at hu
  | succ k ih =>
    obtain ⟨s', hstep, hrun⟩ := State.runsTo_succ_iff.1 h
    rw [Nat.succ_add] at hu
    obtain ⟨s'', hstep', hrun'⟩ := State.runsTo_succ_iff.1 hu
    obtain rfl := Host.Outcome.next.inj (hstep.symm.trans hstep')
    exact ih hrun hrun'

/-- The block is outside IDLE before each of the next `k` edges. -/
def State.BusyFor (s : State) (k : Nat) : Prop := ∀ j u, j < k → s.runsTo j u → u.regs.seq ≠ .idle

section
variable {s t : State} {k m : Nat}

theorem State.BusyFor.add (h : s.BusyFor k) (hrun : s.runsTo k t) (ht : t.BusyFor m) : s.BusyFor (k + m) := by
  intro j u hj hu
  by_cases hjk : j < k
  · exact h j u hjk hu
  · obtain ⟨d, rfl⟩ := Nat.exists_eq_add_of_le (Nat.le_of_not_lt hjk)
    exact ht d u (Nat.lt_of_add_lt_add_left hj) (State.runsTo_of_add hrun hu)

theorem State.busyFor_one (hs : s.regs.seq ≠ .idle) : s.BusyFor 1 := by
  intro j u hj hu
  obtain rfl : j = 0 := Nat.lt_one_iff.1 hj
  obtain rfl := State.runsTo_zero_iff.1 hu
  exact hs

/-- Only a result that transfers leads to IDLE, but for a reset (41_exchange R123). -/
theorem State.nextRegs_seq_ne_idle (hr : s.inputs.rst = false) (hidle : s.regs.seq ≠ .idle) (hresp : s.regs.seq ≠ .resp) :
    s.nextRegs.seq ≠ .idle := by
  rw [State.nextRegs_of_busy hr hidle]
  rcases s.regs.exchangeEdge_cases s.inputs with e | ⟨-, -, e⟩ | ⟨-, -, e⟩ | ⟨-, -, e⟩ | ⟨-, -, e⟩ | ⟨hs, -⟩
  · rwa [e]
  · simp [e]
  · rcases s.regs.writeDone_seq s.inputs with e' | e' <;> simp [e, e']
  · simp [e]
  · simp [e, Regs.readDone_seq]
  · exact absurd hs hresp

/-- A request and its completion take two edges outside IDLE. -/
theorem State.busyFor_two {a : Inputs} {rest : List Inputs} (henv : s.env = a :: rest) (ha : a.undisturbed)
    (hs : s.regs.seq = .wrReq ∨ s.regs.seq = .rdReq) : s.BusyFor 2 := by
  have hidle : s.regs.seq ≠ .idle := by rcases hs with hs | hs <;> simp [hs]
  have hresp : s.regs.seq ≠ .resp := by rcases hs with hs | hs <;> simp [hs]
  have hr : s.inputs.rst = false := by rw [s.inputs_cons a rest henv]; exact ha.1
  intro j u hj hu
  match j, hj with
  | 0, _ => exact State.busyFor_one hidle 0 u one_pos hu
  | 1, _ =>
    obtain ⟨t, hstep, ht⟩ := State.runsTo_succ_iff.1 hu
    obtain rfl := State.runsTo_zero_iff.1 ht
    exact step_regs hstep ▸ State.nextRegs_seq_ne_idle hr hidle hresp

end

theorem exchange_requests_length_le (i : Instr) (w : WriteCompletion) (r : ReadCompletion) :
    (exchange i w r).requests.length ≤ 2 := by
  cases hf : frameOf i with
  | none => simp [(exchange_immediate hf w r).1]
  | some f => rcases exchange_of_frame hf w with ⟨res, e⟩ | ⟨-, e⟩ <;> simp [e]

section
variable {v : Service} (himm : v.immediate)
include himm

theorem Service.immediate.writePart_eq : v.writePart = [v.writeReady, v.writeDone] := by
  obtain ⟨hready, hdone, -⟩ := himm
  simp [Service.writePart, hready, hdone]

theorem Service.immediate.readPart_eq : v.readPart = [v.readReady, v.readDone] := by
  obtain ⟨-, -, hready, hdone, -⟩ := himm
  simp [Service.readPart, hready, hdone]

theorem Service.immediate.resultPart_eq : v.resultPart = [v.takeResult] := by
  obtain ⟨-, -, -, -, hresult⟩ := himm
  simp [Service.resultPart, hresult]

/-- Two samples for the command and the result, and two for each request. -/
theorem Service.immediate.samples_length : ∀ {requests : List ChannelRequest}, requests.length ≤ 2 →
    (v.samples requests).length = 2 + 2 * requests.length
  | [], _ => by rw [Service.samples_none, himm.resultPart_eq]; rfl
  | [q], _ => by rw [Service.samples_one, himm.writePart_eq, himm.resultPart_eq]; rfl
  | [q, q'], _ => by rw [Service.samples_two, himm.writePart_eq, himm.readPart_eq, himm.resultPart_eq]; rfl

section
variable {s : State} {f : Frame} {w : WriteCompletion} {r : ReadCompletion} {rest : List Inputs} (hv : v.Ok)
  (hs : s.regs.seq = .idle) (hw : v.writeDone.writeCompletion = some w)
include hv hs hw

/-- A command that sends a frame is at its write after one edge, and two more take it past the write's completion. -/
theorem Service.immediate.busyFor_write (hf : frameOf (decodeWord v.command.commandWord) = some f)
    (henv : s.env = [v.command] ++ (v.writePart ++ rest)) :
    ∃ t t', s.runsTo 1 t ∧ t.BusyFor 2 ∧ t.runsTo 2 t' ∧ t'.env = rest ∧
      (Phase.afterWrite (decodeWord v.command.commandWord) w).Agrees t'.regs := by
  obtain ⟨t, hcommand, ht⟩ := hv.passes_command hs henv hf
  have henv := hcommand.env_eq henv
  obtain ⟨t', hwrite, ht'⟩ := hv.passes_write ht henv hf hw
  rw [himm.writePart_eq] at henv hwrite
  have hbusy := State.busyFor_two henv hv.writeReady.1 (.inl (Phase.agrees_writeDue.1 ht).1)
  exact ⟨t, t', hcommand.run, hbusy, hwrite.run, hwrite.env_eq henv, ht'⟩

/-- From the edge after the command's on, the block is outside IDLE for two edges a request and the edge of the result. -/
theorem Service.immediate.busyFor (hr : v.readDone.readCompletion = some r)
    (henv : s.env = v.samples (exchange (decodeWord v.command.commandWord) w r).requests ++ rest) :
    ∃ t, s.runsTo 1 t ∧ t.BusyFor (2 * (exchange (decodeWord v.command.commandWord) w r).requests.length + 1) := by
  cases hf : frameOf (decodeWord v.command.commandWord) with
  | none =>
    rw [(exchange_immediate hf w r).1] at henv ⊢
    rw [Service.samples_none, List.append_assoc] at henv
    obtain ⟨t, hcommand, ht⟩ := hv.passes_command_immediate hs henv hf
    exact ⟨t, hcommand.run, State.busyFor_one (by simp [(Phase.agrees_resultDue.1 ht).1])⟩
  | some f =>
    rcases exchange_of_frame hf w with ⟨res, hexchange⟩ | ⟨rfl, hexchange⟩ <;> rw [hexchange] at henv ⊢
    · rw [Service.samples_one, List.append_assoc, List.append_assoc] at henv
      obtain ⟨t, t', hcommand, hwriting, hwrite, -, ht'⟩ := himm.busyFor_write hv hs hw hf henv
      rw [Phase.afterWrite_of_one (hexchange _)] at ht'
      exact ⟨t, hcommand, hwriting.add hwrite (State.busyFor_one (by simp [(Phase.agrees_resultDue.1 ht').1]))⟩
    · rw [Service.samples_two, List.append_assoc, List.append_assoc, List.append_assoc] at henv
      obtain ⟨t, t', hcommand, hwriting, hwrite, henv', ht'⟩ := himm.busyFor_write hv hs hw hf henv
      rw [Phase.afterWrite_of_two (hexchange _)] at ht'
      obtain ⟨t'', hread, ht''⟩ := hv.passes_read ht' henv' hr
      rw [himm.readPart_eq] at henv' hread
      have hreading := State.busyFor_two henv' hv.readReady.1 (.inr (Phase.agrees_readDue.1 ht').1)
      have hresult := State.busyFor_one (s := t'') (by simp [(Phase.agrees_resultDue.1 ht'').1])
      exact ⟨t, hcommand, hwriting.add hwrite (hreading.add hread.run hresult)⟩

end

end

end Sys2Proof.Machine

namespace Sys2Proof.Proofs

open Sys2Proof.Machine

/-- Settles O55: the waits of a served exchange, over the first `n` samples of the script. -/
theorem blockWaitsUntilAnswered : Obligations.BlockWaitsUntilAnswered := by
  intro n s hn hwaits
  obtain ⟨t, ht, hregs⟩ := State.passes_unanswered (List.take_append_drop n s.env).symm hwaits
  have hrun := ht.run
  rw [List.length_take_of_le hn] at hrun
  exact ⟨t, hrun, hregs, by rw [ht.trace, List.append_nil]⟩

/-- Settles O53: the run of the served exchange has that length, and the block is busy from the command's edge to the result's. -/
theorem immediateExchangeCycleCounts : Obligations.ImmediateExchangeCycleCounts := by
  intro s v w r rest hs hv himm hw hr requests henv
  refine ⟨?_, fun k t hpos hlt hrun => ?_⟩
  · obtain ⟨t, hpasses, ht⟩ := hv.passes_exchange hs hw hr henv
    have hrun := hpasses.run
    rw [himm.samples_length (exchange_requests_length_le _ w r)] at hrun
    exact ⟨t, hrun, ht⟩
  · obtain ⟨u, hcommand, hbusy⟩ : ∃ u, s.runsTo 1 u ∧ u.BusyFor (2 * requests.length + 1) :=
      himm.busyFor hv hs hw hr henv
    obtain ⟨j, rfl⟩ := Nat.exists_eq_add_of_le hpos
    exact hbusy j t (by omega) (State.runsTo_of_add hcommand hrun)

end Sys2Proof.Proofs
end

section
/-! Completions that reach another exchange than their own: held too long, or abandoned by a reset (70_reset R185, R187). -/

namespace Sys2Proof.Machine

section
variable {s t : State}

/-- An undisturbed sample is taken by a step. -/
theorem State.step_of_sample {a : Inputs} {rest : List Inputs} (henv : s.env = a :: rest) (ha : a.undisturbed) :
    s.inputs = a ∧ ∃ t, step s = .next t ∧ t.env = rest := by
  have hin : s.inputs = a := s.inputs_cons a rest henv
  obtain ⟨t, hstep⟩ := step_next_iff.2 (State.brokenPremise_of_undisturbed (hin ▸ ha))
  exact ⟨hin, t, hstep, by rw [step_env hstep, henv]; rfl⟩

/-- A fault bit recorded before a run is recorded after it (00_scope R11). -/
theorem State.runsTo_keeps_fault {k : Nat} {f : Fault} (h : s.runsTo k t) (hf : s.faults.has f = true) :
    t.faults.has f = true := by
  induction k generalizing s with
  | zero =>
    obtain rfl := State.runsTo_zero_iff.1 h
    exact hf
  | succ k ih =>
    obtain ⟨s', hstep, hrun⟩ := State.runsTo_succ_iff.1 h
    exact ih hrun (step_faults hstep ▸ s.faultsEdge_keeps f hf)

/-- A Set Target's write completion ends its exchange, whatever it says (41_exchange R115). -/
theorem Regs.writeDone_seq_of_set {r : Regs} (hop : r.opQ = 2) (i : Inputs) : (r.writeDone i).seq = .resp := by
  rcases r.writeDone_cases i with ⟨-, e⟩ | ⟨-, -, e⟩ | ⟨-, -, -, e⟩ | ⟨-, -, hget, -⟩
  · simp [e]
  · simp [e]
  · simp [e]
  · exact absurd hop hget

/-- The rule of a Set Target has one request, so its write leads to the result (R120, R121). -/
theorem Phase.afterWrite_of_set {i : Instr} {f : Frame} (hf : frameOf i = some f) (hop : i.op = 2) (w : WriteCompletion) :
    Phase.afterWrite i w = .resultDue i (exchange i w .noByte).result := by
  obtain ⟨q, res, e⟩ : ∃ q res, exchange i w .noByte = ⟨[q], res⟩ := by
    cases w with
    | error c => exact ⟨_, _, exchange_error hf c _⟩
    | count k =>
      by_cases hk : k = f.len
      · exact ⟨_, _, hk ▸ exchange_ack hf hop _⟩
      · exact ⟨_, _, exchange_incomplete hf hk _⟩
  rw [Phase.afterWrite_of_one e, e]

/-- From IDLE a command that sends a frame, its write taken and completed at once. -/
theorem State.run_write {e1 e2 e3 : Inputs} {rest : List Inputs} {i : Instr} {f : Frame} {w : WriteCompletion}
    (hs : s.regs.seq = .idle) (henv : s.env = e1 :: e2 :: e3 :: rest) (hu : ∀ e ∈ [e1, e2, e3], e.undisturbed)
    (hc : e1.cmdValid = true) (hi : decodeWord e1.commandWord = i) (hf : frameOf i = some f) (hready : e2.wrReqReady = true)
    (hw : e3.writeCompletion = some w) :
    ∃ t, s.runsTo 3 t ∧ (Phase.afterWrite i w).Agrees t.regs ∧ t.regs.lenQ = f.len ∧ t.regs.frameQ = f.data := by
  obtain ⟨hu1, hu2, hu3⟩ : e1.undisturbed ∧ e2.undisturbed ∧ e3.undisturbed := by simpa using hu
  obtain ⟨rfl, t1, hstep1, henv1⟩ := State.step_of_sample henv hu1
  have h1 : (Phase.writeDue i).Agrees t1.regs :=
    step_regs hstep1 ▸ (State.followsPhase_command hu1.1 (Phase.agrees_idle.2 hs) hc hi hf).agrees
  obtain ⟨rfl, t2, hstep2, henv2⟩ := State.step_of_sample henv1 hu2
  have h2 : (Phase.writeOut i).Agrees t2.regs :=
    step_regs hstep2 ▸ (State.followsPhase_writeRequest hu2.1 h1 hf hready).agrees
  obtain ⟨rfl, t3, hstep3, -⟩ := State.step_of_sample henv2 hu3
  have h3 : (Phase.afterWrite i w).Agrees t3.regs := step_regs hstep3 ▸ (State.followsPhase_writeDone hu3.1 h2 hw).agrees
  obtain ⟨hwait, -, hf', -⟩ := Phase.agrees_writeOut.1 h2
  obtain rfl : f = ⟨t2.regs.lenQ, t2.regs.frameQ⟩ := Option.some.inj (hf.symm.trans hf')
  have hregs : t3.regs = t2.regs.exchangeEdge t2.inputs :=
    (step_regs hstep3).trans (State.nextRegs_of_busy hu3.1 (by simp [hwait]))
  obtain ⟨-, hlen, hframe⟩ := t2.regs.exchangeEdge_keeps_request t2.inputs
  refine ⟨t3, ?_, h3, hregs ▸ hlen, hregs ▸ hframe⟩
  exact State.runsTo_succ hstep1 (State.runsTo_succ hstep2 (State.runsTo_succ hstep3 (State.runsTo_zero_iff.2 rfl)))

end

/-! A run without a stray completion, and what it leaves outstanding. -/

/-- The request that an event is the transfer of. -/
def PortEvent.requested : PortEvent → Option ChannelRequest
  | .request q => some q
  | _ => none

/-- The port event of an edge tells the request that transfers (41_exchange R125). -/
theorem State.requestTransferred_eq_requested (s : State) : s.requestTransferred = s.portEvent.bind PortEvent.requested := by
  cases hr : s.inputs.rst with
  | true => rw [State.requestTransferred_of_reset hr, State.portEvent_of_reset hr]; rfl
  | false =>
    rw [State.portEvent_eq_edgeEvent hr]
    cases ha : s.inputs.answers s.regs.seq with
    | false => rw [State.requestTransferred_of_unanswered ha, Regs.edgeEvent_of_unanswered ha]; rfl
    | true =>
      cases hs : s.regs.seq <;> simp only [hs, Inputs.answers] at ha
      case wrReq => simp [State.requestTransferred_of_writeReady hs hr ha, Regs.edgeEvent, hs, ha, PortEvent.requested]
      case rdReq => simp [State.requestTransferred_of_readReady hs hr ha, Regs.edgeEvent, hs, ha, PortEvent.requested]
      all_goals simp [State.requestTransferred_of_unpresented, Regs.edgeEvent, hs, ha, Inputs.writeCompletion,
        Inputs.readCompletion, PortEvent.requested]

/-- After `k` edges from `s` the run is in `t`, with `q` outstanding, and no stray completion has been recorded on the way. -/
structure State.CleanRun (s : State) (k : Nat) (q : List ChannelRequest) (t : State) : Prop where
  run : s.runsTo k t
  env : t.env = s.env.drop k
  outstanding : t.channel.outstanding = q
  stray : t.faults.strayCompletion = s.faults.strayCompletion

theorem State.CleanRun.refl (s : State) : s.CleanRun 0 s.channel.outstanding s :=
  ⟨State.runsTo_zero_iff.2 rfl, rfl, rfl, rfl⟩

section
variable {s t : State} {k : Nat} {q : List ChannelRequest} {p p' : Phase} {e : PortEvent} (h : s.CleanRun k q t)
include h

theorem State.CleanRun.inputs {a : Inputs} {rest : List Inputs} (henv : s.env.drop k = a :: rest) : t.inputs = a :=
  t.inputs_cons a rest (h.env.trans henv)

/-- One edge more, at which no completion is stray. -/
theorem State.CleanRun.extend (hp : t.FollowsPhase p e p') (hpremise : t.brokenPremise = none) (hw : t.strayWrite = false)
    (hd : t.strayRead = false) : ∃ u, s.CleanRun (k + 1) t.channelEdge.outstanding u ∧ p'.Agrees u.regs := by
  obtain ⟨u, hstep⟩ := step_next_iff.2 hpremise
  refine ⟨u, ⟨State.runsTo_snoc h.run hstep, ?_, by rw [step_channel hstep], ?_⟩, step_regs hstep ▸ hp.agrees⟩
  · rw [step_env hstep, h.env, List.tail_drop]
  · rw [step_faults hstep, ← h.stray]
    simp [State.faultsEdge, hw, hd]

/-- An edge without a completion adds the request it transfers. -/
theorem State.CleanRun.extend_of_no_completion (hp : t.FollowsPhase p e p') (hpremise : t.brokenPremise = none)
    (hw : t.inputs.wrDoneValid = false) (hd : t.inputs.rdDoneValid = false) :
    ∃ u, s.CleanRun (k + 1) (q ++ e.requested.toList) u ∧ p'.Agrees u.regs := by
  have hnext := h.extend hp hpremise (by simp [State.strayWrite, hw]) (by simp [State.strayRead, hd])
  rwa [State.channelEdge_outstanding_of_no_completion hw hd, State.requestTransferred_eq_requested, hp.event,
    h.outstanding] at hnext

/-- A write completion in WR_WAIT takes the oldest outstanding write off. -/
theorem State.CleanRun.extend_of_writeDone {w : WriteCompletion} (hp : t.FollowsPhase p (.writeDone w) p')
    (hpremise : t.brokenPremise = none) (hs : t.regs.seq = .wrWait) (hw : t.inputs.wrDoneValid = true)
    (hd : t.inputs.rdDoneValid = false) (hq : q.any ChannelRequest.isWrite = true) :
    ∃ u, s.CleanRun (k + 1) (q.eraseP ChannelRequest.isWrite) u ∧ p'.Agrees u.regs := by
  have hnext := h.extend hp hpremise (by simp [State.strayWrite, hs, h.outstanding, hq]) (by simp [State.strayRead, hd])
  rw [State.channelEdge_outstanding, State.requestTransferred_eq_requested, hp.event, h.outstanding, if_pos hw] at hnext
  simpa [hd, PortEvent.requested] using hnext

/-- A read completion in RD_WAIT takes the oldest outstanding read off. -/
theorem State.CleanRun.extend_of_readDone {c : ReadCompletion} (hp : t.FollowsPhase p (.readDone c) p')
    (hpremise : t.brokenPremise = none) (hs : t.regs.seq = .rdWait) (hw : t.inputs.wrDoneValid = false)
    (hd : t.inputs.rdDoneValid = true) (hq : q.any ChannelRequest.isRead = true) :
    ∃ u, s.CleanRun (k + 1) (q.eraseP ChannelRequest.isRead) u ∧ p'.Agrees u.regs := by
  have hnext := h.extend hp hpremise (by simp [State.strayWrite, hw]) (by simp [State.strayRead, hs, h.outstanding, hq])
  rw [State.channelEdge_outstanding, State.requestTransferred_eq_requested, hp.event, h.outstanding, if_pos hd] at hnext
  simpa [hw, PortEvent.requested] using hnext

end

/-- After a reset that leaves `q` outstanding, a command's write joins it, and the completion takes the oldest write off. -/
theorem State.cleanRun_reset_write {s : State} {e0 e1 e2 e3 : Inputs} {rest : List Inputs} {w : WriteCompletion} {i : Instr}
    {f : Frame} (henv : s.env = e0 :: e1 :: e2 :: e3 :: rest) (hr : e0.rst = true) (hother : e0.otherAgent = false)
    (hclosed : e0.channelClosed = false) (hu : ∀ e ∈ [e1, e2, e3], e.undisturbed)
    (hw : ∀ e ∈ [e0, e1, e2], e.wrDoneValid = false) (hd : ∀ e ∈ [e0, e1, e2, e3], e.rdDoneValid = false)
    (hc : e1.cmdValid = true) (hi : decodeWord e1.commandWord = i) (hf : frameOf i = some f) (hready : e2.wrReqReady = true)
    (hdone : e3.writeCompletion = some w) :
    ∃ t, s.CleanRun 4
        ((s.channel.outstanding ++ [.write f.len (frameBytes f.len f.data)] : List ChannelRequest).eraseP ChannelRequest.isWrite) t ∧
      (Phase.afterWrite i w).Agrees t.regs := by
  obtain ⟨hu1, hu2, hu3⟩ : e1.undisturbed ∧ e2.undisturbed ∧ e3.undisturbed := by simpa using hu
  obtain ⟨hw0, hw1, hw2⟩ : e0.wrDoneValid = false ∧ e1.wrDoneValid = false ∧ e2.wrDoneValid = false := by simpa using hw
  obtain ⟨hd0, hd1, hd2, hd3⟩ :
    e0.rdDoneValid = false ∧ e1.rdDoneValid = false ∧ e2.rdDoneValid = false ∧ e3.rdDoneValid = false := by simpa using hd
  have hstart := State.CleanRun.refl s
  obtain rfl := hstart.inputs henv
  obtain ⟨t1, hrun1, h1⟩ := hstart.extend_of_no_completion (State.followsPhase_reset hr .idle)
    (State.brokenPremise_of_levels hother hclosed) hw0 hd0
  obtain rfl := hrun1.inputs (by rw [henv]; rfl)
  obtain ⟨t2, hrun2, h2⟩ := hrun1.extend_of_no_completion (State.followsPhase_command hu1.1 h1 hc hi hf)
    (State.brokenPremise_of_undisturbed hu1) hw1 hd1
  obtain rfl := hrun2.inputs (by rw [henv]; rfl)
  obtain ⟨t3, hrun3, h3⟩ := hrun2.extend_of_no_completion (State.followsPhase_writeRequest hu2.1 h2 hf hready)
    (State.brokenPremise_of_undisturbed hu2) hw2 hd2
  obtain rfl := hrun3.inputs (by rw [henv]; rfl)
  obtain ⟨t4, hrun4, h4⟩ := hrun3.extend_of_writeDone (State.followsPhase_writeDone hu3.1 h3 hdone)
    (State.brokenPremise_of_undisturbed hu3) (Phase.agrees_writeOut.1 h3).1 (Inputs.wrDoneValid_of_completion hdone) hd3
    (by simp [PortEvent.requested, ChannelRequest.isWrite])
  simp only [PortEvent.requested, Option.toList, List.append_nil] at hrun4
  exact ⟨t4, hrun4, h4⟩

theorem frameOf_of_get {i : Instr} (hop : i.op = 0 ∨ i.op = 1) : ∃ f, frameOf i = some f := by
  cases i with
  | getfb _ _ => exact ⟨_, rfl⟩
  | gettg _ _ => exact ⟨_, rfl⟩
  | _ => simp [Instr.op] at hop

end Sys2Proof.Machine

namespace Sys2Proof.Proofs

open Sys2Proof.Machine

/-- Settles O59: two edges end the first exchange and record the completion as stray, and three more are the next exchange. -/
theorem heldCompletionEndsTheNextSet : Obligations.HeldCompletionEndsTheNextSet := by
  intro s e2 e3 e4 e5 e6 rest w i f hs hop henv he hrsp hc hi hset hf hready
  obtain ⟨⟨hu2, hw2⟩, ⟨hu3, hw3⟩, ⟨hu4, -⟩, ⟨hu5, -⟩, hu6, hw6⟩ :
    (e2.undisturbed ∧ e2.writeCompletion = some w) ∧ (e3.undisturbed ∧ e3.writeCompletion = some w) ∧
    (e4.undisturbed ∧ e4.writeCompletion = some w) ∧ (e5.undisturbed ∧ e5.writeCompletion = some w) ∧
    e6.undisturbed ∧ e6.writeCompletion = some w := by simpa using he
  obtain ⟨rfl, t2, hstep2, henv2⟩ := State.step_of_sample henv hu2
  have h2 : t2.regs.seq = .resp := by
    rw [step_regs hstep2, State.nextRegs_of_busy hu2.1 (by simp [hs]),
      Regs.exchangeEdge_of_writeDone hs (Inputs.wrDoneValid_of_completion hw2)]
    exact Regs.writeDone_seq_of_set hop _
  obtain ⟨rfl, t3, hstep3, henv3⟩ := State.step_of_sample henv2 hu3
  have h3 : t3.regs.seq = .idle := by
    rw [step_regs hstep3, State.nextRegs_of_busy hu3.1 (by simp [h2]), Regs.exchangeEdge_of_result h2 hrsp]
  have hstray : t3.faults.has .strayCompletion = true :=
    step_faults hstep3 ▸ State.strayWrite_recorded (by simp [h2]) (Inputs.wrDoneValid_of_completion hw3)
  obtain ⟨t, hrun, ht, hlen, hframe⟩ := State.run_write h3 henv3 (by simp [hu4, hu5, hu6]) hc hi hf hready hw6
  rw [Phase.afterWrite_of_set hf hset] at ht
  obtain ⟨hresp, -, hresult⟩ := Phase.agrees_resultDue.1 ht
  exact ⟨t, State.runsTo_succ hstep2 (State.runsTo_succ hstep3 hrun), hresp, hlen, hframe, hresult,
    State.runsTo_keeps_fault hrun hstray⟩

/-- Settles O60: the reset keeps what is outstanding, so the completion takes the older request of its kind off. -/
theorem abandonedCompletionIsTakenByTheNextExchange : Obligations.AbandonedCompletionIsTakenByTheNextExchange := by
  constructor
  · intro s e0 e1 e2 e3 rest w i f len bytes hs hout henv hr hother hclosed hu hw hd hc hi hf hready hdone
    obtain ⟨t, hrun, ht⟩ := State.cleanRun_reset_write henv hr hother hclosed hu hw hd hc hi hf hready hdone
    rw [hout] at hrun
    refine ⟨t, hrun.run, ?_, hrun.outstanding, hrun.stray⟩
    unfold Phase.afterWrite at ht
    split at ht
    case isTrue htwo => rw [if_pos htwo]; exact (Phase.agrees_readDue.1 ht).1
    case isFalse htwo =>
      obtain ⟨hresp, -, hresult⟩ := Phase.agrees_resultDue.1 ht
      rw [if_neg htwo]
      exact ⟨hresp, hresult⟩
  · intro s e0 e1 e2 e3 e4 e5 rest c i hs hout henv hr hother hclosed hu hw hd hc hi hget hready hdone hread hcompl
    obtain ⟨hu1, hu2, hu3, hu4, hu5⟩ :
      e1.undisturbed ∧ e2.undisturbed ∧ e3.undisturbed ∧ e4.undisturbed ∧ e5.undisturbed := by simpa using hu
    obtain ⟨hw0, hw1, hw2, hw4, hw5⟩ : e0.wrDoneValid = false ∧ e1.wrDoneValid = false ∧ e2.wrDoneValid = false ∧
      e4.wrDoneValid = false ∧ e5.wrDoneValid = false := by simpa using hw
    obtain ⟨hd0, hd1, hd2, hd3, hd4⟩ : e0.rdDoneValid = false ∧ e1.rdDoneValid = false ∧ e2.rdDoneValid = false ∧
      e3.rdDoneValid = false ∧ e4.rdDoneValid = false := by simpa using hd
    obtain ⟨f, hf⟩ := frameOf_of_get hget
    have hop : i.op ≠ 2 := by rcases hget with h | h <;> rw [h] <;> decide
    obtain ⟨t4, hrun4, h4⟩ := State.cleanRun_reset_write henv hr hother hclosed (by simp [hu1, hu2, hu3])
      (by simp [hw0, hw1, hw2]) (by simp [hd0, hd1, hd2, hd3]) hc hi hf hready hdone
    rw [Phase.afterWrite_of_two (exchange_read hf hop _).2] at h4
    rw [hout] at hrun4
    obtain rfl := hrun4.inputs (by rw [henv]; rfl)
    obtain ⟨t5, hrun5, h5⟩ := hrun4.extend_of_no_completion (State.followsPhase_readRequest hu4.1 h4 hread)
      (State.brokenPremise_of_undisturbed hu4) hw4 hd4
    obtain rfl := hrun5.inputs (by rw [henv]; rfl)
    obtain ⟨t6, hrun6, h6⟩ := hrun5.extend_of_readDone (State.followsPhase_readDone hu5.1 h5 hcompl)
      (State.brokenPremise_of_undisturbed hu5) (Phase.agrees_readOut.1 h5).1 hw5 (Inputs.rdDoneValid_of_completion hcompl) rfl
    obtain ⟨hresp, -, hresult⟩ := Phase.agrees_resultDue.1 h6
    exact ⟨t6, hrun6.run, hresp, hresult, hrun6.outstanding, hrun6.stray⟩

end Sys2Proof.Proofs
end
